-- ==== Sys2Proof/Word.lean ====
section
/-! DEFINITION. The words of the LJT4100 and their plainest arithmetic. -/

namespace Sys2Proof

/-- A byte of the service port, of a record, or of a frame's data phase. -/
abbrev Byte := BitVec 8

/-- A 32-bit value: addresses, data words, masks (R28, R41). -/
abbrev Word32 := BitVec 32

/-- A 40-bit count of ticks: the timestamp (R140). -/
abbrev Time := BitVec 40

/-- Counters that saturate "stop at their stated maximum and stay there" (00_scope.md, Numbers). -/
def satAdd (max a b : Nat) : Nat := min max (a + b)

end Sys2Proof
end

