-- ==== Sys2Proof/Syntax.lean ====
section
/-! DEFINITION. The commands of the block: one constructor of `Instr` per row of spec/opcode_table.json.
A row of the service port carries its argument bytes as the fields of its layout (R190, R191), raw: the
values are judged only at the taking, by the rule that owns the command (R158). -/

namespace Sys2Proof

/-- How one data lane of the monitored link is driven (R1). With neither side driving, each pin rests at
the level of the board's pull resistor on its own side. `true` is the high level. -/
inductive LaneDrive where
  | host (level : Bool)
  | memory (level : Bool)
  | undriven (hostRest memoryRest : Bool)
deriving DecidableEq, Repr

/-- The four data lanes D0 to D3 at one moment (R1). -/
structure LinkLanes where
  d0 : LaneDrive
  d1 : LaneDrive
  d2 : LaneDrive
  d3 : LaneDrive
deriving DecidableEq, Repr

/-- What a transition of H_CLK takes the link to: the level of H_CLK, true for high, and the lanes (R1, R8). -/
structure LinkLevels where
  clock : Bool
  lanes : LinkLanes
deriving DecidableEq, Repr

/-- The levels of the lines the service host clocks the port by, S_CLK and S_DI: true for high (R156). -/
structure ServiceLine where
  clock : Bool
  data : Bool
deriving DecidableEq, Repr

/-- What ARGUMENT BYTE carries: a whole byte on S_DI, or the levels that one transition of S_CLK or S_DI takes
the two lines to, so that a byte can come bit by bit (R156, R158, log 29). -/
inductive ServiceInput where
  | byte (b : Byte)
  | edge (line : ServiceLine)
deriving DecidableEq, Repr

/-- The seven argument bytes of PUT OPCODE ENTRY, in order (R190). -/
structure OpcodeEntryArgs where
  opcode : Byte
  kind : Byte
  addrBytes : Byte
  addrWidth : Byte
  wait : Byte
  direction : Byte
  dataWidth : Byte
deriving DecidableEq, Repr

/-- The slot layout, 30 bytes (R191). -/
structure SlotArgs where
  slot : Byte
  enabled : Byte
  targets : Byte
  kinds : Byte
  opcodeForm : Byte
  opcodeValue : Byte
  windowForm : Byte
  low : Word32
  high : Word32
  condition : Byte
  v1 : Word32
  v2 : Word32
  mask : Word32
  anomalies : Byte
  scope : Byte
deriving DecidableEq, Repr

/-- The stage layout, 11 bytes (R191). -/
structure StageArgs where
  stage : Byte
  advance : BitVec 16
  required : BitVec 16
  restart : BitVec 16
  timeout : BitVec 24
  action : Byte
deriving DecidableEq, Repr

/-- The setup layout, 17 bytes (R191). -/
structure SetupArgs where
  mode : Byte
  repeating : Byte
  depth : BitVec 16
  post : BitVec 16
  keep : BitVec 16
  policy : Byte
  holdLimit : Word32
  filterKinds : Byte
  filterTargets : Byte
  qualifier : Byte
  anomaliesAlways : Byte
deriving DecidableEq, Repr

/-- The timebase layout, 8 bytes (R191). -/
structure TimebaseArgs where
  prescale : BitVec 24
  role : Byte
  syncAtArm : Byte
  xtOut : Byte
  xtLen : Byte
  xtIn : Byte
deriving DecidableEq, Repr

/-- The commands of the block, one per row of the opcode table, in families. Link pulses carry the four
lanes as they stand at the sampling edge; SAMPLING EDGE carries the level H_CLK goes to as well, and stands for
every transition of it, the return to the idle level among them (R1, R8, log 15). Select rows carry the select
number. ARGUMENT BYTE carries a byte or one transition of the service lines (R156, log 29). -/
inductive Instr where
  -- supply and resets
  | powerOn
  | powerOnResetEnd
  | resetNAsserted
  | resetNReleased
  | powerLoss
  -- the monitored link
  | selectAsserted (n : Fin 4)
  | selectNegated (n : Fin 4)
  | samplingEdge (link : LinkLevels)
  | opcodeComplete (lanes : LinkLanes)
  | addressComplete (lanes : LinkLanes)
  | waitDone (lanes : LinkLanes)
  | dataByteComplete (lanes : LinkLanes)
  | trailPulse (lanes : LinkLanes)
  | opaquePulse (lanes : LinkLanes)
  -- ticks and what counters bring about
  | timebaseTick
  | stageTimeout
  | holdExpired
  | syncPulseEnd
  | xtPulseEnd
  -- chain lines
  | syncEdge
  | xtEdge
  -- the service frame
  | sSelAsserted
  | sSelNegated
  | argumentByte (input : ServiceInput)
  | unknownCommand (code : Byte)
  | replyReady
  | replyComplete
  -- service commands: port
  | status
  | nextEvent
  | setEventMask (kinds : BitVec 16)
  | softReset
  -- service commands: configuration
  | linkControl (decode idle opcodeLanes : Byte)
  | putOpcodeEntry (args : OpcodeEntryArgs)
  | getOpcodeEntry (form value : Byte)
  | dropOpcodeEntry (opcode : Byte)
  | putSlot (args : SlotArgs)
  | getSlot (slot : Byte)
  | putStage (args : StageArgs)
  | getStage (stage : Byte)
  | putSequence (count : Byte)
  | putCaptureSetup (args : SetupArgs)
  | getCaptureSetup
  -- service commands: session
  | forceTrigger
  | arm (traceOption startOption : Byte)
  | stop
  | clearTrace
  -- service commands: readout
  | readRecord
  | peekRecord
  | skipRecords (count : BitVec 16)
  | mark
  | rewind
  | release
  | setWatermark (level : BitVec 16)
  -- service commands: time
  | setTimebase (args : TimebaseArgs)
  | syncNow
  | readTime
  -- service commands: tally
  | tallyControl (choice : Byte)
  | tallySnapshot (choice : Byte)
  | readTally (row : Byte)
deriving DecidableEq, Repr

end Sys2Proof
end

