-- ==== Sys2Proof/Decode.lean ====
section
/-! DEFINITION. The service port's command list and the bytes that spell each command (R190, R191), and
`decodeTableWord`. The opcode table gives no row any bits, so no table word spells a command. -/

namespace Sys2Proof

/-- The `n` bytes of a value, most significant byte first (R188, opening of chapter 11). -/
def beBytes : Nat → Nat → List Byte
  | 0, _ => []
  | n + 1, v => BitVec.ofNat 8 (v / 256 ^ n) :: beBytes n v

/-- The number of argument bytes of each command code; `none` names no command (R158, R160, R190). -/
def commandArgs (code : Byte) : Option Nat :=
  match code.toNat with
  | 0x01 => some 0
  | 0x02 => some 0
  | 0x03 => some 2
  | 0x04 => some 0
  | 0x10 => some 7
  | 0x11 => some 2
  | 0x12 => some 1
  | 0x13 => some 3
  | 0x20 => some 30
  | 0x21 => some 1
  | 0x28 => some 11
  | 0x29 => some 1
  | 0x2A => some 1
  | 0x30 => some 17
  | 0x31 => some 0
  | 0x32 => some 2
  | 0x33 => some 0
  | 0x34 => some 0
  | 0x35 => some 0
  | 0x40 => some 0
  | 0x41 => some 0
  | 0x42 => some 2
  | 0x43 => some 0
  | 0x44 => some 0
  | 0x45 => some 0
  | 0x46 => some 2
  | 0x50 => some 8
  | 0x51 => some 0
  | 0x52 => some 0
  | 0x60 => some 1
  | 0x61 => some 1
  | 0x62 => some 1
  | _ => none

/-- PUT OPCODE ENTRY's argument bytes (R190). -/
def OpcodeEntryArgs.bytes (a : OpcodeEntryArgs) : List Byte :=
  [a.opcode, a.kind, a.addrBytes, a.addrWidth, a.wait, a.direction, a.dataWidth]

/-- The slot layout (R191). -/
def SlotArgs.bytes (a : SlotArgs) : List Byte :=
  [a.slot, a.enabled, a.targets, a.kinds, a.opcodeForm, a.opcodeValue, a.windowForm]
    ++ beBytes 4 a.low.toNat ++ beBytes 4 a.high.toNat ++ [a.condition]
    ++ beBytes 4 a.v1.toNat ++ beBytes 4 a.v2.toNat ++ beBytes 4 a.mask.toNat ++ [a.anomalies, a.scope]

/-- The stage layout (R191). -/
def StageArgs.bytes (a : StageArgs) : List Byte :=
  [a.stage] ++ beBytes 2 a.advance.toNat ++ beBytes 2 a.required.toNat ++ beBytes 2 a.restart.toNat
    ++ beBytes 3 a.timeout.toNat ++ [a.action]

/-- The setup layout (R191). -/
def SetupArgs.bytes (a : SetupArgs) : List Byte :=
  [a.mode, a.repeating] ++ beBytes 2 a.depth.toNat ++ beBytes 2 a.post.toNat ++ beBytes 2 a.keep.toNat
    ++ [a.policy] ++ beBytes 4 a.holdLimit.toNat
    ++ [a.filterKinds, a.filterTargets, a.qualifier, a.anomaliesAlways]

/-- The timebase layout (R191). -/
def TimebaseArgs.bytes (a : TimebaseArgs) : List Byte :=
  beBytes 3 a.prescale.toNat ++ [a.role, a.syncAtArm, a.xtOut, a.xtLen, a.xtIn]

/-- The bytes on S_DI of a service command: its code, then its argument bytes (R158, R190); `none` for a
row that is no service command. -/
def Instr.serviceBytes : Instr → Option (List Byte)
  | .powerOn | .powerOnResetEnd | .resetNAsserted | .resetNReleased | .powerLoss => none
  | .selectAsserted _ | .selectNegated _ | .samplingEdge _ | .opcodeComplete _ | .addressComplete _
  | .waitDone _ | .dataByteComplete _ | .trailPulse _ | .opaquePulse _ => none
  | .timebaseTick | .stageTimeout | .holdExpired | .syncPulseEnd | .xtPulseEnd | .syncEdge | .xtEdge => none
  | .sSelAsserted | .sSelNegated | .argumentByte _ | .unknownCommand _ | .replyReady | .replyComplete => none
  | .status => some [0x01]
  | .nextEvent => some [0x02]
  | .setEventMask k => some (0x03 :: beBytes 2 k.toNat)
  | .softReset => some [0x04]
  | .putOpcodeEntry a => some (0x10 :: a.bytes)
  | .getOpcodeEntry f v => some [0x11, f, v]
  | .dropOpcodeEntry o => some [0x12, o]
  | .linkControl d i l => some [0x13, d, i, l]
  | .putSlot a => some (0x20 :: a.bytes)
  | .getSlot n => some [0x21, n]
  | .putStage a => some (0x28 :: a.bytes)
  | .getStage n => some [0x29, n]
  | .putSequence n => some [0x2A, n]
  | .putCaptureSetup a => some (0x30 :: a.bytes)
  | .getCaptureSetup => some [0x31]
  | .arm t o => some [0x32, t, o]
  | .stop => some [0x33]
  | .forceTrigger => some [0x34]
  | .clearTrace => some [0x35]
  | .readRecord => some [0x40]
  | .peekRecord => some [0x41]
  | .skipRecords n => some (0x42 :: beBytes 2 n.toNat)
  | .mark => some [0x43]
  | .rewind => some [0x44]
  | .release => some [0x45]
  | .setWatermark w => some (0x46 :: beBytes 2 w.toNat)
  | .setTimebase a => some (0x50 :: a.bytes)
  | .syncNow => some [0x51]
  | .readTime => some [0x52]
  | .tallyControl c => some [0x60, c]
  | .tallySnapshot c => some [0x61, c]
  | .readTally r => some [0x62, r]

/-- The command a table word spells: none, since no row of spec/opcode_table.json gives bits. -/
def decodeTableWord (_nbits _w : Nat) : Option Instr := none

end Sys2Proof
end

