-- ==== Sys2Proof/Config.lean ====
section
/-! DEFINITION. What the LJT4100 fixes: sizes, limits and thresholds the spec gives. The spec leaves no
result value open, so there is no free value here. -/

namespace Sys2Proof.Config

/-- The trace ring, in units of 8 bytes (R102). -/
abbrev traceUnits : Nat := 16384

/-- Units of a GAP or MARKER record, and of a FRAME record's header (R90, R91). -/
abbrev headerUnits : Nat := 4

/-- HOLD is asserted when fewer units than this are free (R114). -/
abbrev holdOnBelow : Nat := 72

/-- HOLD is released when this many units are free again (R114). -/
abbrev holdOffFrom : Nat := 144

/-- The event queue holds this many entries before the 16th position, which is for EVENTS_LOST alone (R168). -/
abbrev plainEvents : Nat := 15

/-- A LEADER's SYNC pulse, in ticks (R146). -/
abbrev syncPulseTicks : Nat := 8

/-- The pending bytes of a reply at the most (R193). -/
abbrev maxPendingBytes : Nat := 16

/-- Maximum of a 32-bit saturating count (R100, R168, R179). -/
abbrev max32 : Nat := 4294967295

/-- Maximum of a 40-bit saturating byte count (R183). -/
abbrev max40 : Nat := 1099511627775

/-- Maximum of a tick count: frame duration (R15), hold limit, episode length (R116). -/
abbrev max24 : Nat := 16777215

/-- Maximum of the trigger count (R61). -/
abbrev max16 : Nat := 65535

end Sys2Proof.Config
end

