-- ==== Sys2Proof/Machine/Blocks.lean ====
section
/-! DEFINITION. What each of the ten blocks owns (00_scope.md, block overview), with its values after
power-on and pin reset as the chapter that owns it lays down. -/

namespace Sys2Proof.Machine
open Sys2Proof

/-! ### Opcode Table (chapter 2) -/

/-- The class of a frame (R35). UNLISTED is no value of an entry's kind field (2.1). -/
inductive Kind where
  | read | write | erase | control | status | unlisted
deriving DecidableEq, Repr

/-- Address bytes of an entry (2.1). -/
inductive AddrBytes where
  | zero | two | three | four
deriving DecidableEq, Repr

/-- Lanes on which an address or data byte is sent (2.1). -/
inductive Width where
  | one | two | four
deriving DecidableEq, Repr

/-- Whether a data phase follows and which side drives it (2.1). -/
inductive Direction where
  | none | toMemory | fromMemory
deriving DecidableEq, Repr

/-- An opcode entry: the key and six fields (2.1). -/
structure OpcodeEntry where
  opcode : Byte
  kind : Kind
  addrBytes : AddrBytes
  addrWidth : Width
  wait : Fin 32
  direction : Direction
  dataWidth : Width
deriving DecidableEq, Repr

/-- The 32 positions, each free or holding one entry (R18). -/
abbrev OpcodeTable := Vector (Option OpcodeEntry) 32

/-- Power-on and pin reset free all 32 positions (R18). -/
def OpcodeTable.reset : OpcodeTable := Vector.replicate 32 none

/-! ### Link Tap (chapters 1 and 2) -/

/-- Lanes on which the opcode is sent (R4, R9). -/
inductive OpcodeLanes where
  | one | four
deriving DecidableEq, Repr

/-- The target of a frame (R11). -/
inductive Target where
  | sel (n : Fin 4)
  | multiple
deriving DecidableEq, Repr

/-- The decoding state, with what its phase has taken so far: bits sampled and their value in OPCODE,
ADDRESS and DATA, pulses counted in WAIT (2.2). -/
inductive Decoding where
  | opcode (bits : Nat) (acc : Byte)
  | address (bits : Nat) (acc : Word32)
  | wait (pulses : Nat)
  | data (bits : Nat) (acc : Byte)
  | trail
  | unlisted
deriving DecidableEq, Repr

/-- The Link Tap's account of the frame in progress (R10, R35). The kind and the address byte count are
read from the entry copy; the set of asserted selects is the H_SEL pins. `word` holds the bytes of the
data word being built, `wordOffset` the byte offset of its first byte in the data phase modulo 2^32,
`firstWord` whether it is the frame's first word (R28). -/
structure FrameContext where
  openingSelect : Fin 4
  target : Option Target
  startTime : Time
  duration : Nat
  idleLevel : Bool
  opcodeLanes : OpcodeLanes
  holdViolation : Bool
  timeReset : Bool
  decoding : Decoding
  opcode : Option Byte
  entry : Option OpcodeEntry
  address : Option Word32
  dataCount : Nat
  storeLimit : Nat
  stored : List Byte
  word : List Byte
  wordOffset : Word32
  firstWord : Bool
  truncated : Bool
  residue : Bool
  excess : Bool
  collision : Bool
deriving DecidableEq, Repr

/-- The Link Tap's boundary state; only IN FRAME holds a frame context (1.2, R3). -/
inductive Boundary where
  | reset
  | off
  | idle
  | inFrame (ctx : FrameContext)
  | skipping
deriving DecidableEq, Repr

/-- The Link Tap: boundary state and link configuration (R4). `idleLevel` is true for HIGH.
`frameStarts` is the model's own count of frame starts announced: the moments of R53 and R61. -/
structure LinkTap where
  boundary : Boundary
  decodeEnable : Bool
  idleLevel : Bool
  opcodeLanes : OpcodeLanes
  frameStarts : Nat
deriving DecidableEq, Repr

/-- Power-on and pin reset: RESET, and the link configuration of R4 (R14). The model's own count of frame starts
begins at 0 (DESIGN CHOICE, log 8). -/
def LinkTap.reset : LinkTap :=
  { boundary := .reset, decodeEnable := true, idleLevel := false, opcodeLanes := .one, frameStarts := 0 }

/-! ### Match Unit (chapter 3) -/

/-- What a slot asks of the data or the anomalies (R42). -/
inductive DataCondition where
  | none | word | pair | anomaly
deriving DecidableEq, Repr

/-- Whether a WORD or PAIR slot looks at the first word or pair alone (R42). -/
inductive Scope where
  | first | any
deriving DecidableEq, Repr

/-- A match slot, eleven fields (3.1). Sets are the bit fields of R192; opcode `none` is ANY. -/
structure Slot where
  enabled : Bool
  targets : BitVec 5
  kinds : BitVec 6
  opcode : Option Byte
  window : Option (Word32 × Word32)
  condition : DataCondition
  v1 : Word32
  v2 : Word32
  mask : Word32
  anomalies : BitVec 4
  scope : Scope
deriving DecidableEq, Repr

/-- A slot after power-on and pin reset (R38). -/
def Slot.reset : Slot :=
  { enabled := false, targets := 0, kinds := 0, opcode := none, window := none, condition := .none,
    v1 := 0, v2 := 0, mask := 0, anomalies := 0, scope := .any }

/-- What the evaluation of a frame holds for one slot (R46). -/
structure SlotProgress where
  done : Bool
  words : Nat
  openPair : Bool
deriving DecidableEq, Repr

/-- The evaluation state of an evaluated frame: the slot copy (R45), the moment of the frame's start
(R53), the progress of each slot and the hit set (R46). -/
structure Evaluation where
  copy : Vector Slot 8
  start : Nat
  progress : Vector SlotProgress 8
  hits : BitVec 8
deriving DecidableEq, Repr

structure MatchUnit where
  slots : Vector Slot 8
  eval : Option Evaluation
deriving DecidableEq, Repr

/-- Power-on and pin reset (R38, R46). -/
def MatchUnit.reset : MatchUnit := { slots := Vector.replicate 8 Slot.reset, eval := none }

/-! ### Trigger Sequencer (chapter 4) -/

/-- What the sequencer does when a stage's timer expires (4.1). -/
inductive TimeoutAction where
  | restart | advance
deriving DecidableEq, Repr

/-- A stage descriptor, five fields (4.1). Bits 0 to 7 of a set are S0 to S7, bit 8 is X (R192). -/
structure Stage where
  advance : BitVec 9
  required : Nat
  restart : BitVec 9
  timeout : Nat
  action : TimeoutAction
deriving DecidableEq, Repr

/-- A descriptor after power-on and pin reset (R57). -/
def Stage.reset : Stage := { advance := 0, required := 1, restart := 0, timeout := 0, action := .restart }

inductive SeqState where
  | idle | watching | triggered
deriving DecidableEq, Repr

/-- The Trigger Sequencer: stage count and descriptors (R57), runtime state (R61). `timer` is `none` when
stopped. `sessionStart` is the session start point, as the count of frame starts announced by then. -/
structure Sequencer where
  count : Nat
  stages : Vector Stage 4
  state : SeqState
  stage : Fin 4
  occ : Nat
  timer : Option Nat
  trigCount : Nat
  sessionStart : Nat
deriving DecidableEq, Repr

/-- Power-on and pin reset (R57, R61). The spec gives the session start point no value before the first move to
WATCHING: 0 is the model's choice (DESIGN CHOICE, log 8). -/
def Sequencer.reset : Sequencer :=
  { count := 1, stages := Vector.replicate 4 Stage.reset, state := .idle, stage := 0, occ := 0,
    timer := none, trigCount := 0, sessionStart := 0 }

/-- What declares a trigger (4.7): SEQUENCE names the slot, 0 to 7, or X, 8. -/
inductive TriggerSource where
  | forced
  | sequence (hit : Fin 9)
  | timeout
deriving DecidableEq, Repr

/-! ### Capture Controller (chapter 5) -/

inductive Mode where
  | window | stream
deriving DecidableEq, Repr

/-- What the Trace Memory does when a record does not fit (R78). -/
inductive Policy where
  | drop | hold | stop
deriving DecidableEq, Repr

/-- The capture setup, eleven fields (R78): `depth` is P, `post` is Q, `keep` is K. -/
structure Setup where
  mode : Mode
  repeating : Bool
  depth : Nat
  post : Nat
  keep : Nat
  policy : Policy
  holdLimit : Nat
  filterKinds : BitVec 6
  filterTargets : BitVec 5
  qualifier : BitVec 8
  anomaliesAlways : Bool
deriving DecidableEq, Repr

/-- The capture setup after power-on and pin reset (R78). -/
def Setup.reset : Setup :=
  { mode := .window, repeating := false, depth := 256, post := 256, keep := 16, policy := .stop,
    holdLimit := 0, filterKinds := 0b111111, filterTargets := 0b11111, qualifier := 0,
    anomaliesAlways := false }

/-- Why a session ended (R99). -/
inductive Cause where
  | count | full | stopped
deriving DecidableEq, Repr

/-- The capture state (R82). The completion cause is none in every state but COMPLETE (R81). -/
inductive CaptureState where
  | idle | waitSync | pretrig | posttrig | streaming
  | complete (cause : Cause)
deriving DecidableEq, Repr

/-- The current frame (R81, R88); a frame that began outside a storing state has no number. -/
structure CurrentFrame where
  number : Option (BitVec 16)
  member : Bool
  pending : Bool
deriving DecidableEq, Repr

/-- The pending loss run: its first frame's number and start timestamp, and its count (R81, R98). -/
structure LossRun where
  number : BitVec 16
  startTime : Time
  count : Nat
deriving DecidableEq, Repr

/-- The Capture Controller: setup (R78), runtime state (R81), its four statistics (R100). -/
structure Capture where
  setup : Setup
  state : CaptureState
  nextFrame : BitVec 16
  current : Option CurrentFrame
  preCount : Nat
  postCount : Nat
  loss : Option LossRun
  seen : Nat
  qualified : Nat
  appended : Nat
  lost : Nat
deriving DecidableEq, Repr

/-- The runtime state after power-on, pin reset and SOFT RESET, beside a given setup (R81, R101). -/
def Capture.fresh (setup : Setup) : Capture :=
  { setup := setup, state := .idle, nextFrame := 0, current := none, preCount := 0, postCount := 0,
    loss := none, seen := 0, qualified := 0, appended := 0, lost := 0 }

/-- Power-on and pin reset (R78, R81, R101). -/
def Capture.reset : Capture := Capture.fresh Setup.reset

/-! ### Trace Memory (chapter 6) -/

/-- A FRAME record's fields (R90). The address is `none` when ADDRESS_PRESENT is clear; `stage` is `none`
for TRIGGERED. The stored count is the length of `stored`. -/
structure FrameRecord where
  number : BitVec 16
  startTime : Time
  duration : Nat
  target : Target
  opcode : Byte
  kind : Kind
  addrBytes : AddrBytes
  address : Option Word32
  dataCount : Nat
  stored : List Byte
  hits : BitVec 8
  stage : Option (Fin 4)
  trigger : Bool
  truncated : Bool
  residue : Bool
  excess : Bool
  collision : Bool
  timeReset : Bool
  holdViolation : Bool
deriving DecidableEq, Repr

/-- The cause of a MARKER: the declaration's source (R91). -/
inductive MarkerCause where
  | forced | sequence | timeout
deriving DecidableEq, Repr

/-- The three record kinds (R90, R91). -/
inductive Record where
  | frame (r : FrameRecord)
  | gap (run : LossRun)
  | marker (number : BitVec 16) (time : Time) (cause : MarkerCause)
deriving DecidableEq, Repr

/-- A record held in the trace, with its pre-trigger indication (R102). `id` is the model's own name of
the record, by which the read in flight is compared with the cursor (R128). -/
structure Held where
  id : Nat
  record : Record
  pre : Bool
deriving DecidableEq, Repr

/-- A hold episode: the ticks of its timer and its violation indication (R115, R118). -/
structure Episode where
  ticks : Nat
  violated : Bool
deriving DecidableEq, Repr

/-- The Trace Memory: the trace, oldest first, the free units (R102), the HOLD state with its episode
(R114; asserted exactly while an episode runs), hold-spent (R120). -/
structure TraceMemory where
  trace : List Held
  nextId : Nat
  free : Nat
  episode : Option Episode
  holdSpent : Bool
deriving DecidableEq, Repr

/-- Power-on and pin reset (R121). -/
def TraceMemory.reset : TraceMemory :=
  { trace := [], nextId := 0, free := Config.traceUnits, episode := none, holdSpent := false }

/-! ### Readout Unit (chapter 7) -/

/-- The Readout Unit (R123). The cursor and the mark are positions counted from the oldest record held;
a cursor equal to the number of records held is the position after the newest. -/
structure Readout where
  cursor : Nat
  mark : Option Nat
  inFlight : Option Nat
  watermark : Nat
  reached : Bool
deriving DecidableEq, Repr

/-- Power-on and pin reset (R123). -/
def Readout.reset : Readout :=
  { cursor := 0, mark := none, inFlight := none, watermark := 0, reached := false }

/-! ### Timebase and Chain (chapter 8) -/

inductive Role where
  | alone | leader | follower
deriving DecidableEq, Repr

/-- An XT pulse being driven: ticks counted, and the length in force when it began (R153). -/
structure XtPulse where
  ticks : Nat
  length : Nat
deriving DecidableEq, Repr

/-- The Timebase and Chain block (R140). `divider` counts CLKIN periods toward the tick in progress (R141). -/
structure Timebase where
  time : Time
  divider : Nat
  prescale : Nat
  role : Role
  syncAtArm : Bool
  xtOut : Bool
  xtLen : Nat
  xtIn : Bool
  syncPulse : Option Nat
  xtPulse : Option XtPulse
  timeReset : Bool
deriving DecidableEq, Repr

/-- Power-on and pin reset (R140, R155). -/
def Timebase.reset : Timebase :=
  { time := 0, divider := 0, prescale := 1, role := .alone, syncAtArm := false, xtOut := false,
    xtLen := 4, xtIn := false, syncPulse := none, xtPulse := none, timeReset := false }

/-! ### Service Port (chapter 9) -/

/-- Status codes (9.3, R192). -/
inductive Status where
  | ok | badCommand | badArg | locked | active | notActive | unread | notFound | tableFull | empty
  | markHeld | noMark
deriving DecidableEq, Repr

/-- The reply buffer's content (R159). -/
structure Reply where
  status : Status
  payload : List Byte
deriving DecidableEq, Repr

/-- The cause of RESTARTED (R166). -/
inductive ResetCause where
  | power | pin | soft
deriving DecidableEq, Repr

/-- The cause of a HOLD release (R116). -/
inductive HoldOffCause where
  | space | limit | ended
deriving DecidableEq, Repr

/-- The thirteen event kinds with their details (R166). -/
inductive Event where
  | restarted (cause : ResetCause)
  | triggered (source : TriggerSource) (count : Nat)
  | sessionComplete (cause : Cause)
  | stageTimeout (stage : Fin 4) (action : TimeoutAction)
  | holdOn (free : Nat)
  | holdOff (cause : HoldOffCause) (ticks : Nat)
  | holdExpired (free : Nat)
  | holdViolation (select : Fin 4)
  | recordsLost (n : Nat)
  | cursorSkipped (n : Nat)
  | watermark (unread : Nat)
  | syncSeen (low : Word32)
  | eventsLost (n : Nat)
deriving DecidableEq, Repr

/-- A queue entry: kind with detail, and the timestamp at which it was raised (R166). -/
structure Entry where
  event : Event
  time : Time
deriving DecidableEq, Repr

/-- The event in flight: the entry's event as copied (R171), and the time of the first raising added into
it since (R172). -/
structure EventInFlight where
  copied : Event
  addedAt : Option Time
deriving DecidableEq, Repr

/-- The service frame state (R157); COMMAND holds the bytes received so far, code first (R158). -/
inductive PortFrame where
  | reset
  | noFrame
  | command (bytes : List Byte)
  | reply
  | trailer
  | ignoring
deriving DecidableEq, Repr

/-- The Service Port (9, opening). -/
structure ServicePort where
  frame : PortFrame
  reply : Option Reply
  ready : Bool
  /-- the bits of the byte in progress clocked so far, first-clocked first (R156) -/
  bits : List Bool
  /-- which byte of the reply is in progress, from its marker on; none until the marker begins (R161) -/
  byteAt : Option Nat
  /-- the pending bytes of this reply phase clocked out so far, 0 to 16 (R161, R193) -/
  pendingSent : Nat
  /-- the level the part drives on S_DO while it drives it: true for high (R156) -/
  out : Bool
  mask : BitVec 13
  queue : List Entry
  inFlight : Option EventInFlight
deriving DecidableEq, Repr

/-- Power-on and pin reset (R156, R166, R173, R176). S_DO is released in RESET; the level it drives next is that of
0xFF (R177, log 29). -/
def ServicePort.reset : ServicePort :=
  { frame := .reset, reply := none, ready := false, bits := [], byteAt := none, pendingSent := 0, out := true,
    mask := BitVec.allOnes 13, queue := [], inFlight := none }

/-! ### Activity Tally (chapter 10) -/

/-- A kind cell (10.1). -/
structure TallyCell where
  frames : Nat
  bytes : Nat
deriving DecidableEq, Repr

/-- A target row: six kind cells in the order of the kind codes, and three anomaly counts (10.1). -/
structure TallyRow where
  cells : Vector TallyCell 6
  truncated : Nat
  residue : Nat
  excess : Nat
deriving DecidableEq, Repr

/-- A tally table: four target rows and the collision counter (10.1). -/
structure TallyTable where
  rows : Vector TallyRow 4
  collisions : Nat
deriving DecidableEq, Repr

/-- Every cell and count 0 (R179). -/
def TallyTable.zero : TallyTable :=
  { rows := Vector.replicate 4
      { cells := Vector.replicate 6 { frames := 0, bytes := 0 }, truncated := 0, residue := 0, excess := 0 },
    collisions := 0 }

/-- The Activity Tally (R179). -/
structure Tally where
  live : TallyTable
  snap : TallyTable
  enable : Bool
  snapTime : Time
deriving DecidableEq, Repr

/-- Power-on and pin reset (R179). -/
def Tally.reset : Tally := { live := .zero, snap := .zero, enable := false, snapTime := 0 }

end Sys2Proof.Machine
end

