-- ==== Sys2Proof/Machine/State.lean ====
section
/-! DEFINITION. The state of the LJT4100 as plain data, its value after reset, and the reasons a step could
stop. -/

namespace Sys2Proof.Machine
open Sys2Proof

/-- The machine's state: supply, resets and input pins, the ten blocks, and the queue of waiting commands
(the model's own). Output pins are views (Machine/Ops.lean). -/
structure State where
  /-- the supply is applied -/
  powered : Bool
  /-- power-on reset is in progress (R3) -/
  porActive : Bool
  /-- RESET_N is held low -/
  resetLow : Bool
  /-- H_SEL0 to H_SEL3: bit n set while SELn is asserted (driven low) -/
  hSel : BitVec 4
  /-- H_CLK: true for high (R1) -/
  hClk : Bool
  /-- the data lanes of the link and which side drives them (R1) -/
  lanes : LinkLanes
  /-- S_SEL is asserted -/
  sSel : Bool
  /-- S_CLK and S_DI (R156) -/
  sLine : ServiceLine
  tap : LinkTap
  opTable : OpcodeTable
  mu : MatchUnit
  seq : Sequencer
  cc : Capture
  tm : TraceMemory
  ru : Readout
  tb : Timebase
  sp : ServicePort
  tally : Tally
  /-- the commands waiting, first in, first out -/
  pending : List Instr
deriving DecidableEq, Repr

/-- The part has no fault: nothing in the spec stops it (INVENTORY.md, Faults). No constructor, so no
meaning can answer one; safe. -/
inductive Fault where
deriving DecidableEq, Repr

/-- Why a command has no meaning. -/
inductive Refusal where
  /-- Raised by an arm of `exec` whose command has no meaning yet; no arm does. Safe: the model stops
  where the part goes on. -/
  | notModelled (mnemonic : String)
deriving DecidableEq, Repr

/-- The lanes with neither side driving and both pulls high (DESIGN CHOICE, log 3). -/
def restLanes : LinkLanes :=
  { d0 := .undriven true true, d1 := .undriven true true, d2 := .undriven true true,
    d3 := .undriven true true }

/-- The machine right after power-on reset has ended with every input at rest (log 1, log 3): every block at
its reset values, the tap IDLE and the port in NO FRAME (R3, R177), RESTARTED(POWER) queued with timestamp 0
(R166, R177), and no command waiting. -/
def State.reset : State :=
  { powered := true, porActive := false, resetLow := false, hSel := 0, hClk := false, lanes := restLanes,
    sSel := false, sLine := { clock := false, data := false }, tap := { LinkTap.reset with boundary := .idle }, opTable := OpcodeTable.reset,
    mu := MatchUnit.reset, seq := Sequencer.reset, cc := Capture.reset, tm := TraceMemory.reset,
    ru := Readout.reset, tb := Timebase.reset,
    sp := { ServicePort.reset with frame := .noFrame, queue := [{ event := .restarted .power, time := 0 }] },
    tally := Tally.reset, pending := [] }

end Sys2Proof.Machine
end

