-- ==== Sys2Proof/Machine/Operands.lean ====
section
/-! DEFINITION. Operand forms: what a pulse's lanes give at each width (R1, R9), and what each argument byte
stands for (R192). An argument whose encoding is not listed gives `none`. -/

namespace Sys2Proof.Machine
open Sys2Proof

/-! ### Lanes -/

/-- The level at the host-side pin of a lane: as driven by the host, or as repeated from the memory (R1). -/
def LaneDrive.hostPin : LaneDrive → Bool
  | .host l => l
  | .memory l => l
  | .undriven h _ => h

/-- The level at the memory-side pin of a lane (R1). -/
def LaneDrive.memoryPin : LaneDrive → Bool
  | .host l => l
  | .memory l => l
  | .undriven _ m => m

/-- Four levels as a value, D3 the most significant (R9). -/
def nibble (b3 b2 b1 b0 : Bool) : BitVec 4 :=
  BitVec.ofBool b3 ++ BitVec.ofBool b2 ++ BitVec.ofBool b1 ++ BitVec.ofBool b0

/-- H_D3 to H_D0, which the Link Tap samples (R1, R8). -/
def LinkLanes.hostPins (l : LinkLanes) : BitVec 4 :=
  nibble (LaneDrive.hostPin l.d3) (LaneDrive.hostPin l.d2) (LaneDrive.hostPin l.d1) (LaneDrive.hostPin l.d0)

/-- M_D3 to M_D0 (R1). -/
def LinkLanes.memoryPins (l : LinkLanes) : BitVec 4 :=
  nibble (LaneDrive.memoryPin l.d3) (LaneDrive.memoryPin l.d2) (LaneDrive.memoryPin l.d1)
    (LaneDrive.memoryPin l.d0)

/-- Bits a pulse gives at a width. -/
def Width.bits : Width → Nat
  | .one => 1
  | .two => 2
  | .four => 4

/-- Bits a pulse gives at the opcode lanes (R9). -/
def OpcodeLanes.bits : OpcodeLanes → Nat
  | .one => 1
  | .four => 4

/-- The value a pulse gives on its `n` lowest lanes; the others are ignored (R9). -/
def sampleBits (n : Nat) (l : LinkLanes) : Nat := (LinkLanes.hostPins l).toNat % 2 ^ n

/-- Shifts a pulse of `n` bits in: the first-sent bit is the most significant (R9, R25, R27). -/
def shiftIn {w : Nat} (acc : BitVec w) (n : Nat) (l : LinkLanes) : BitVec w :=
  (acc <<< n) ||| BitVec.ofNat w (sampleBits n l)

/-- The number of address bytes. -/
def AddrBytes.toNat : AddrBytes → Nat
  | .zero => 0
  | .two => 2
  | .three => 3
  | .four => 4

/-! ### Argument bytes -/

/-- 0 off, 1 on. -/
def onOff? (b : Byte) : Option Bool :=
  match b.toNat with
  | 0 => some false
  | 1 => some true
  | _ => none

/-- Clock idle level: 0 LOW, 1 HIGH. -/
def idleLevel? (b : Byte) : Option Bool := onOff? b

/-- Opcode lanes: 1 or 4, as the number. -/
def opcodeLanes? (b : Byte) : Option OpcodeLanes :=
  match b.toNat with
  | 1 => some .one
  | 4 => some .four
  | _ => none

/-- KEEP is 0xFF: `some none`; otherwise the value the field allows (R5, R192). -/
def keepOr {α : Type} (value? : Byte → Option α) (b : Byte) : Option (Option α) :=
  if b = 0xFF#8 then some none else (value? b).map some

/-- The kind field of an entry, 0 to 4; UNLISTED is not a value of it. -/
def entryKind? (b : Byte) : Option Kind :=
  match b.toNat with
  | 0 => some .read
  | 1 => some .write
  | 2 => some .erase
  | 3 => some .control
  | 4 => some .status
  | _ => none

def addrBytes? (b : Byte) : Option AddrBytes :=
  match b.toNat with
  | 0 => some .zero
  | 2 => some .two
  | 3 => some .three
  | 4 => some .four
  | _ => none

def width? (b : Byte) : Option Width :=
  match b.toNat with
  | 1 => some .one
  | 2 => some .two
  | 4 => some .four
  | _ => none

def direction? (b : Byte) : Option Direction :=
  match b.toNat with
  | 0 => some .none
  | 1 => some .toMemory
  | 2 => some .fromMemory
  | _ => none

/-- Wait pulses 0 to 31. -/
def wait? (b : Byte) : Option (Fin 32) :=
  if h : b.toNat < 32 then some ⟨b.toNat, h⟩ else none

/-- A number below `n` as an index. -/
def index? (n : Nat) (b : Byte) : Option (Fin n) :=
  if h : b.toNat < n then some ⟨b.toNat, h⟩ else none

/-- A set field of `w` member bits in a wider field: a bit that names no member makes it no value (R192). -/
def set? (w : Nat) {v : Nat} (b : BitVec v) : Option (BitVec w) :=
  if b.toNat < 2 ^ w then some (BitVec.ofNat w b.toNat) else none

/-- Data condition: 0 NONE, 1 WORD, 2 PAIR, 3 ANOMALY (R191). -/
def condition? (b : Byte) : Option DataCondition :=
  match b.toNat with
  | 0 => some .none
  | 1 => some .word
  | 2 => some .pair
  | 3 => some .anomaly
  | _ => none

/-- Scope: 0 FIRST, 1 ANY (R191). -/
def scope? (b : Byte) : Option Scope :=
  match b.toNat with
  | 0 => some .first
  | 1 => some .any
  | _ => none

/-- Opcode condition form: 0 exact, 1 ANY; with ANY the value byte is not kept (R191). -/
def opcodeCondition? (form value : Byte) : Option (Option Byte) :=
  match form.toNat with
  | 0 => some (some value)
  | 1 => some none
  | _ => none

/-- Address window: 0 absent, whose bounds are not kept, 1 present (R191). -/
def window? (form : Byte) (low high : Word32) : Option (Option (Word32 × Word32)) :=
  match form.toNat with
  | 0 => some none
  | 1 => some (some (low, high))
  | _ => none

/-- Timeout action: 0 RESTART, 1 ADVANCE (R191). -/
def action? (b : Byte) : Option TimeoutAction :=
  match b.toNat with
  | 0 => some .restart
  | 1 => some .advance
  | _ => none

def mode? (b : Byte) : Option Mode :=
  match b.toNat with
  | 0 => some .window
  | 1 => some .stream
  | _ => none

def policy? (b : Byte) : Option Policy :=
  match b.toNat with
  | 0 => some .drop
  | 1 => some .hold
  | 2 => some .stop
  | _ => none

def role? (b : Byte) : Option Role :=
  match b.toNat with
  | 0 => some .alone
  | 1 => some .leader
  | 2 => some .follower
  | _ => none

/-- Trace option of ARM: 0 DISCARD (`false`), 1 KEEP (`true`). -/
def traceKeep? (b : Byte) : Option Bool := onOff? b

/-- Start option of ARM: 0 IMMEDIATE (`false`), 1 ON_SYNC (`true`). -/
def onSync? (b : Byte) : Option Bool := onOff? b

/-- TALLY SNAPSHOT: 0 KEEP (`false`), 1 CLEAR (`true`). -/
def snapshotClear? (b : Byte) : Option Bool := onOff? b

/-- The six fields and the key of PUT OPCODE ENTRY, if each is a value of its row (R19). -/
def entry? (a : OpcodeEntryArgs) : Option OpcodeEntry := do
  let kind ← entryKind? a.kind
  let addrBytes ← addrBytes? a.addrBytes
  let addrWidth ← width? a.addrWidth
  let wait ← wait? a.wait
  let direction ← direction? a.direction
  let dataWidth ← width? a.dataWidth
  return { opcode := a.opcode, kind, addrBytes, addrWidth, wait, direction, dataWidth }

/-- The eleven fields of PUT SLOT, if each is among its values (R43, third row). -/
def slotFields? (a : SlotArgs) : Option Slot := do
  let enabled ← onOff? a.enabled
  let targets ← set? 5 a.targets
  let kinds ← set? 6 a.kinds
  let opcode ← opcodeCondition? a.opcodeForm a.opcodeValue
  let window ← window? a.windowForm a.low a.high
  let condition ← condition? a.condition
  let anomalies ← set? 4 a.anomalies
  let scope ← scope? a.scope
  return { enabled, targets, kinds, opcode, window, condition, v1 := a.v1, v2 := a.v2, mask := a.mask,
           anomalies, scope }

/-- R43's checks on the fields together: low above high, ANOMALY with an empty set, ANOMALY with a window. -/
def Slot.allowed (f : Slot) : Bool :=
  (match f.window with
    | none => true
    | some (low, high) => decide (low ≤ high)) &&
  !(decide (f.condition = .anomaly) && (decide (f.anomalies = 0) || f.window.isSome))

/-- A slot PUT SLOT accepts (R43). -/
def slot? (a : SlotArgs) : Option Slot :=
  match slotFields? a with
  | none => none
  | some f => if f.allowed then some f else none

/-- The five fields of PUT STAGE, if accepted (R58). -/
def stage? (a : StageArgs) : Option Stage := do
  let action ← action? a.action
  let advance ← set? 9 a.advance
  let restart ← set? 9 a.restart
  if a.required = 0 then none
  else return { advance, required := a.required.toNat, restart, timeout := a.timeout.toNat, action }

/-- The eleven fields of PUT CAPTURE SETUP, if accepted (R79). -/
def setup? (a : SetupArgs) : Option Setup := do
  let mode ← mode? a.mode
  let repeating ← onOff? a.repeating
  let policy ← policy? a.policy
  let anomaliesAlways ← onOff? a.anomaliesAlways
  let filterKinds ← set? 6 a.filterKinds
  let filterTargets ← set? 5 a.filterTargets
  if a.depth.toNat ≤ 4095 ∧ a.keep.toNat ≤ 256 ∧ a.holdLimit.toNat ≤ 16777215 then
    return { mode, repeating, depth := a.depth.toNat, post := a.post.toNat, keep := a.keep.toNat, policy,
             holdLimit := a.holdLimit.toNat, filterKinds, filterTargets, qualifier := a.qualifier,
             anomaliesAlways }
  else none

/-- The six settings of SET TIMEBASE, if accepted (R144), put into the block. -/
def timebase? (a : TimebaseArgs) (tb : Timebase) : Option Timebase := do
  let role ← role? a.role
  let syncAtArm ← onOff? a.syncAtArm
  let xtOut ← onOff? a.xtOut
  let xtIn ← onOff? a.xtIn
  if 1 ≤ a.prescale.toNat ∧ a.prescale.toNat ≤ 65536 ∧ a.xtLen ≠ 0 then
    return { tb with prescale := a.prescale.toNat, role, syncAtArm, xtOut, xtLen := a.xtLen.toNat, xtIn }
  else none

end Sys2Proof.Machine
end

