-- ==== Sys2Proof/Machine/Ops.lean ====
section
/-! DEFINITION. The named operations over the part's state that several commands share: output pins, raising
events, the trace's removals and appends, the judgements of the watermark and of HOLD, the sequencer's and the
timebase's small moves. -/

namespace Sys2Proof.Machine
open Sys2Proof

/-! ### Reset and the output pins -/

/-- Between the start of power-on and its end, while RESET_N is low, and without supply, the part is in
reset (R3, R141, R155, R176). -/
def State.inReset (s : State) : Bool := !s.powered || s.porActive || s.resetLow

/-- M_SEL0 to M_SEL3 follow the host-side selects; without supply the repeaters do not carry the link
(R1, R2). -/
def State.mSel (s : State) : Option (BitVec 4) := if s.powered then some s.hSel else none

/-- M_CLK follows H_CLK (R1). -/
def State.mClk (s : State) : Option Bool := if s.powered then some s.hClk else none

/-- H_D3 to H_D0 as the host sees them, M_D3 to M_D0 as the memories see them (R1). -/
def State.hD (s : State) : Option (BitVec 4) := if s.powered then some (LinkLanes.hostPins s.lanes) else none

def State.mD (s : State) : Option (BitVec 4) := if s.powered then some (LinkLanes.memoryPins s.lanes) else none

/-- HOLD is pulled low exactly while a hold episode runs (R16, R115). -/
def State.holdPin (s : State) : Bool := s.tm.episode.isSome

/-- ATTN is asserted exactly while the event queue holds an entry (R170). -/
def State.attnPin (s : State) : Bool := !s.sp.queue.isEmpty

/-- SYNC is pulled low by this monitor while its pulse runs (R146). -/
def State.syncPin (s : State) : Bool := s.tb.syncPulse.isSome

/-- XT is pulled low by this monitor while its pulse runs (R153). -/
def State.xtPin (s : State) : Bool := s.tb.xtPulse.isSome

/-! ### Events (chapter 9) -/

/-- The kind code of an event (R189). -/
def Event.code : Event → Nat
  | .restarted _ => 1
  | .triggered _ _ => 2
  | .sessionComplete _ => 3
  | .stageTimeout _ _ => 4
  | .holdOn _ => 5
  | .holdOff _ _ => 6
  | .holdExpired _ => 7
  | .holdViolation _ => 8
  | .recordsLost _ => 9
  | .cursorSkipped _ => 10
  | .watermark _ => 11
  | .syncSeen _ => 12
  | .eventsLost _ => 13

/-- The kinds into whose held entry counts are added (R168). -/
def Event.isRecordsLost : Event → Bool
  | .recordsLost _ => true
  | _ => false

def Event.isCursorSkipped : Event → Bool
  | .cursorSkipped _ => true
  | _ => false

def Event.isWatermark : Event → Bool
  | .watermark _ => true
  | _ => false

def Event.isEventsLost : Event → Bool
  | .eventsLost _ => true
  | _ => false

/-- Adds `n` to a counting detail, saturating at 2^32 - 1 (R168). -/
def Event.plus (e : Event) (n : Nat) : Event :=
  match e with
  | .recordsLost k => .recordsLost (satAdd Config.max32 k n)
  | .cursorSkipped k => .cursorSkipped (satAdd Config.max32 k n)
  | .eventsLost k => .eventsLost (satAdd Config.max32 k n)
  | e => e

/-- Takes a copied counting detail away again, for the remainder of R172. -/
def Event.minus (e copied : Event) : Event :=
  match e, copied with
  | .recordsLost k, .recordsLost n => .recordsLost (k - n)
  | .cursorSkipped k, .cursorSkipped n => .cursorSkipped (k - n)
  | .eventsLost k, .eventsLost n => .eventsLost (k - n)
  | e, _ => e

/-- Whether an event's kind is enabled: RESTARTED and EVENTS_LOST always, the others by the mask (R167). -/
def Event.enabled (e : Event) (mask : BitVec 13) : Bool :=
  e.code == 1 || e.code == 13 || mask.getLsbD (e.code - 1)

/-- Adds `n` into the first held entry of a kind; it keeps its place and its timestamp (R168). -/
def addInto (kind : Event → Bool) (n : Nat) : List Entry → List Entry
  | [] => []
  | e :: rest => if kind e.event then { e with event := e.event.plus n } :: rest else e :: addInto kind n rest

/-- A raising added into the entry whose copy is in flight, which is the head: the time of the first one is
kept for the remainder (R172). -/
def noteAdded (kind : Event → Bool) (now : Time) (queue : List Entry) (flight : Option EventInFlight) :
    Option EventInFlight :=
  match queue, flight with
  | e :: _, some f => if kind e.event && f.addedAt.isNone then some { f with addedAt := some now } else some f
  | _, f => f

/-- Adds into a held entry, and notes it for the entry in flight (R168, R172). -/
def ServicePort.addInto (sp : ServicePort) (kind : Event → Bool) (n : Nat) (now : Time) : ServicePort :=
  { sp with queue := Machine.addInto kind n sp.queue, inFlight := noteAdded kind now sp.queue sp.inFlight }

/-- Whether an entry of a kind is held. -/
def ServicePort.holds (sp : ServicePort) (kind : Event → Bool) : Bool := sp.queue.any fun e => kind e.event

/-- The placement when no held entry of the event's own kind takes it: the third to fifth cases of R168. -/
def ServicePort.enqueue (sp : ServicePort) (e : Event) (now : Time) : ServicePort :=
  if sp.holds Event.isEventsLost then sp.addInto Event.isEventsLost 1 now
  else if Config.plainEvents ≤ sp.queue.length then
    { sp with queue := sp.queue ++ [{ event := .eventsLost 1, time := now }] }
  else { sp with queue := sp.queue ++ [{ event := e, time := now }] }

/-- The placement of an enabled event, by the first case that applies (R168). -/
def ServicePort.place (sp : ServicePort) (e : Event) (now : Time) : ServicePort :=
  match e with
  | .recordsLost n =>
    if sp.holds Event.isRecordsLost then sp.addInto Event.isRecordsLost n now else sp.enqueue e now
  | .cursorSkipped n =>
    if sp.holds Event.isCursorSkipped then sp.addInto Event.isCursorSkipped n now else sp.enqueue e now
  | .watermark _ => if sp.holds Event.isWatermark then sp else sp.enqueue e now
  | e => sp.enqueue e now

/-- Raises an event, with the timestamp as it stands (R167). -/
def raiseEvent (e : Event) (s : State) : State :=
  if e.enabled s.sp.mask then { s with sp := s.sp.place e s.tb.time } else s

/-! ### The trace (chapters 6 and 7) -/

/-- A record's length in units (R90, R91). -/
def Record.units : Record → Nat
  | .frame r => Config.headerUnits + (r.stored.length + 7) / 8
  | .gap _ => Config.headerUnits
  | .marker _ _ _ => Config.headerUnits

/-- The units a run of held records occupies. -/
def unitsOf (l : List Held) : Nat := (l.map fun h => h.record.units).sum

/-- The FRAME records of a run held with the pre-trigger indication (R94). -/
def preRecords (l : List Held) : Nat := l.countP fun h => h.pre

/-- The unread count: the records from the cursor to the newest (R125). -/
def State.unread (s : State) : Nat := s.tm.trace.length - s.ru.cursor

/-- The record the cursor designates, if it stands at one (R124). -/
def State.atCursor (s : State) : Option Held := s.tm.trace[s.ru.cursor]?

/-- Removes the `k` oldest records (R104): their units are free again, and each one held with the
pre-trigger indication lowers the pre-trigger record count (R94). The cursor and the mark keep designating
the records they designate; a cursor at a removed record moves to the next one left (R111). -/
def removeOldest (k : Nat) (s : State) : State :=
  { s with
    tm := { s.tm with trace := s.tm.trace.drop k, free := s.tm.free + unitsOf (s.tm.trace.take k) }
    cc := { s.cc with preCount := s.cc.preCount - preRecords (s.tm.trace.take k) }
    ru := { s.ru with cursor := s.ru.cursor - k, mark := s.ru.mark.map (· - k) } }

/-- Discards the `k` oldest records in the taking of an offer; discards that move the cursor raise one
CURSOR_SKIPPED with the number of records it was moved over (R111). -/
def discardOldest (k : Nat) (s : State) : State :=
  if s.ru.cursor < k then raiseEvent (.cursorSkipped (k - s.ru.cursor)) (removeOldest k s)
  else removeOldest k s

/-- Frees what lies before the mark, or before the cursor with no mark held (R112). -/
def freeRead (s : State) : State := removeOldest (s.ru.mark.getD s.ru.cursor) s

/-- Whether a record is a FRAME record flagged TIME_RESET (R150). -/
def Record.flaggedTimeReset : Record → Bool
  | .frame r => r.timeReset
  | _ => false

/-- Appends a record after the newest (R103); it counts in records appended (R97, R100), and a FRAME record
flagged TIME_RESET clears time-reset pending (R150). -/
def appendRecord (r : Record) (pre : Bool) (s : State) : State :=
  { s with
    tm := { s.tm with
            trace := s.tm.trace ++ [{ id := s.tm.nextId, record := r, pre := pre }]
            nextId := s.tm.nextId + 1
            free := s.tm.free - r.units }
    cc := { s.cc with appended := satAdd Config.max32 s.cc.appended 1 }
    tb := { s.tb with timeReset := s.tb.timeReset && !r.flaggedTimeReset } }

/-- Empties the trace, with no event and no report to the Capture Controller; the mark is dropped, the cursor
set at the empty end, the watermark state set to BELOW, hold-spent cleared (R122, R138). -/
def emptyTrace (s : State) : State :=
  { s with
    tm := { s.tm with trace := [], free := Config.traceUnits, holdSpent := false }
    ru := { s.ru with cursor := 0, mark := none, reached := false } }

/-! ### Judgements made after a happening -/

/-- The watermark, judged on the unread count the happening leaves (R136, R137). -/
def judgeWatermark (s : State) : State :=
  if s.ru.watermark = 0 then s
  else if s.ru.reached then
    if s.unread < s.ru.watermark then { s with ru := { s.ru with reached := false } } else s
  else if s.ru.watermark ≤ s.unread then
    raiseEvent (.watermark s.unread) { s with ru := { s.ru with reached := true } }
  else s

/-- The hold conditions (R114). -/
def holdConditions (s : State) : Bool :=
  (decide (s.cc.state = .posttrig) || decide (s.cc.state = .streaming)) &&
    decide (s.cc.setup.policy = .hold) && !s.tm.holdSpent

/-- Asserts HOLD: a new episode, its timer at 0 and its violation indication clear, and HOLD_ON (R115). -/
def assertHold (s : State) : State :=
  raiseEvent (.holdOn s.tm.free) { s with tm := { s.tm with episode := some { ticks := 0, violated := false } } }

/-- Releases HOLD with a cause and raises HOLD_OFF with the episode's length (R116). -/
def releaseHold (cause : HoldOffCause) (e : Episode) (s : State) : State :=
  raiseEvent (.holdOff cause (min Config.max24 e.ticks)) { s with tm := { s.tm with episode := none } }

/-- HOLD, judged on the free units, the capture state and the hold-spent flag (R114). -/
def judgeHold (s : State) : State :=
  match s.tm.episode with
  | none => if holdConditions s && decide (s.tm.free < Config.holdOnBelow) then assertHold s else s
  | some e =>
    if !holdConditions s then releaseHold .ended e s
    else if Config.holdOffFrom ≤ s.tm.free then releaseHold .space e s
    else s

/-- What follows a happening taken whole: the watermark where the unread count changed (R136), then HOLD
where the free units, the capture state or the hold-spent flag changed (R114). -/
def settle (before after : State) : State :=
  let judged := if before.unread = after.unread then after else judgeWatermark after
  if before.tm.free = after.tm.free ∧ before.cc.state = after.cc.state ∧
      before.tm.holdSpent = after.tm.holdSpent then judged
  else judgeHold judged

/-- A happening with the judgements that follow it. -/
def happening (f : State → State) (s : State) : State := settle s (f s)

/-! ### Timebase and Chain (chapter 8) -/

/-- Zeroes the timestamp, restarts the division and sets time-reset pending (R141, R142, R150). -/
def zeroTime (s : State) : State :=
  { s with tb := { s.tb with time := 0, divider := 0, timeReset := true } }

/-- A LEADER's emission of SYNC: no effect while a pulse is being driven (R146). -/
def emitSync (s : State) : State :=
  match s.tb.syncPulse with
  | some _ => s
  | none =>
    let z := zeroTime s
    { z with tb := { z.tb with syncPulse := some 0 } }

/-- A declaration at the Timebase and Chain block: with XT output enabled, a pulse begins, or the count of
the pulse being driven goes back to 0 (R153). -/
def pulseXt (s : State) : State :=
  if s.tb.xtOut then
    match s.tb.xtPulse with
    | none => { s with tb := { s.tb with xtPulse := some { ticks := 0, length := s.tb.xtLen } } }
    | some p => { s with tb := { s.tb with xtPulse := some { p with ticks := 0 } } }
  else s

/-! ### Sequencer and session moves (chapters 4 and 5) -/

/-- The storing states (5.2). -/
def CaptureState.storing : CaptureState → Bool
  | .pretrig | .posttrig | .streaming => true
  | _ => false

/-- An active session: WAITSYNC or a storing state (R82). -/
def CaptureState.isActive : CaptureState → Bool
  | .waitSync | .pretrig | .posttrig | .streaming => true
  | _ => false

/-- The stage timer for a stage just entered: started from 0, or stopped when its timeout is 0 (R70). -/
def freshTimer (timeout : Nat) : Option Nat := if timeout = 0 then none else some 0

/-- WATCHING in stage `k` with count 0 and the timer restarted for it (R67, R70). -/
def Sequencer.enter (q : Sequencer) (k : Fin 4) : Sequencer :=
  { q with state := .watching, stage := k, occ := 0, timer := freshTimer (q.stages.get k).timeout }

/-- IDLE: stage 0, count 0, timer stopped; the trigger count is kept (R63). -/
def Sequencer.toIdle (q : Sequencer) : Sequencer :=
  { q with state := .idle, stage := 0, occ := 0, timer := none }

/-- TRIGGERED: the stage held, count 0, timer stopped (R75). -/
def Sequencer.toTriggered (q : Sequencer) : Sequencer :=
  { q with state := .triggered, occ := 0, timer := none }

/-- The start of a session: the capture state enters its storing state by the mode (R85), the sequencer moves
to WATCHING and records its session start point (R62). -/
def startSession (s : State) : State :=
  { s with
    cc := { s.cc with state := if s.cc.setup.mode = .window then .pretrig else .streaming }
    seq := { s.seq.enter 0 with sessionStart := s.tap.frameStarts } }

end Sys2Proof.Machine
end

