-- ==== Sys2Proof/Machine/Flags.lean ====
section
/-! DEFINITION. Every flag computation the spec gives: the anomalies settled at frame end, the set a slot's
anomaly set is held against, the flags of a record and the packed bits of STATUS and READ TIME. -/

namespace Sys2Proof.Machine
open Sys2Proof

/-- TRUNCATED, from the decoding state at frame end (R32). -/
def truncatedAtEnd (ctx : FrameContext) : Bool :=
  match ctx.decoding with
  | .opcode _ _ => true
  | .address _ _ => true
  | .wait _ => true
  | .data _ _ => decide (ctx.dataCount = 0)
  | .trail => false
  | .unlisted => false

/-- RESIDUE: the frame ends in DATA with a byte begun but not completed (R33). -/
def residueAtEnd (ctx : FrameContext) : Bool :=
  match ctx.decoding with
  | .data bits _ => decide (bits ≠ 0)
  | _ => false

/-- Eight indications as the bits of a byte, the first one bit 0. -/
def packBits (b0 b1 b2 b3 b4 b5 b6 b7 : Bool) : Byte :=
  BitVec.ofBool b7 ++ BitVec.ofBool b6 ++ BitVec.ofBool b5 ++ BitVec.ofBool b4 ++
    BitVec.ofBool b3 ++ BitVec.ofBool b2 ++ BitVec.ofBool b1 ++ BitVec.ofBool b0

/-- The anomaly flags of a context as a set: bit 0 TRUNCATED, 1 RESIDUE, 2 EXCESS, 3 COLLISION (R192). -/
def FrameContext.anomalies (ctx : FrameContext) : BitVec 4 :=
  nibble ctx.collision ctx.excess ctx.residue ctx.truncated

/-- Byte 18 of a FRAME record (R188). -/
def FrameRecord.flagByte (r : FrameRecord) : Byte :=
  packBits r.trigger r.truncated r.residue r.excess r.collision r.timeReset r.holdViolation r.address.isSome

/-- Byte 6 of the STATUS payload (R191). -/
def statusFlagByte (hold spent marked decode : Bool) : Byte :=
  packBits hold spent marked decode false false false false

/-- The pulse byte of READ TIME (R190). -/
def pulseByte (sync xt : Bool) : Byte := packBits sync xt false false false false false false

/-- A slot set from its members (R192). -/
def slotSet (member : Fin 8 → Bool) : BitVec 8 :=
  packBits (member 0) (member 1) (member 2) (member 3) (member 4) (member 5) (member 6) (member 7)

end Sys2Proof.Machine
end

