-- ==== Sys2Proof/Machine/Formats.lean ====
section
/-! DEFINITION. The byte layouts of chapter 11: records (R188), event entries (R189), the payloads of the
commands (R190, R191) and the encodings of values in replies (R192). -/

namespace Sys2Proof.Machine
open Sys2Proof

/-- A number as one byte. -/
def byte (n : Nat) : Byte := BitVec.ofNat 8 n

/-- on is 1, off is 0 (R192). -/
def onOffByte (b : Bool) : Byte := if b then 1 else 0

/-- The kind codes (R188). -/
def Kind.code : Kind → Nat
  | .read => 0
  | .write => 1
  | .erase => 2
  | .control => 3
  | .status => 4
  | .unlisted => 5

/-- Byte 12 of a FRAME record (R188). -/
def Target.code : Target → Nat
  | .sel n => n.val
  | .multiple => 15

def Width.code : Width → Nat
  | .one => 1
  | .two => 2
  | .four => 4

def OpcodeLanes.code : OpcodeLanes → Nat
  | .one => 1
  | .four => 4

def Direction.code : Direction → Nat
  | .none => 0
  | .toMemory => 1
  | .fromMemory => 2

def DataCondition.code : DataCondition → Nat
  | .none => 0
  | .word => 1
  | .pair => 2
  | .anomaly => 3

def Scope.code : Scope → Nat
  | .first => 0
  | .any => 1

def TimeoutAction.code : TimeoutAction → Nat
  | .restart => 0
  | .advance => 1

def SeqState.code : SeqState → Nat
  | .idle => 0
  | .watching => 1
  | .triggered => 2

def Mode.code : Mode → Nat
  | .window => 0
  | .stream => 1

def Policy.code : Policy → Nat
  | .drop => 0
  | .hold => 1
  | .stop => 2

def Role.code : Role → Nat
  | .alone => 0
  | .leader => 1
  | .follower => 2

def Cause.code : Cause → Nat
  | .count => 1
  | .full => 2
  | .stopped => 3

/-- Capture state codes (R192). -/
def CaptureState.code : CaptureState → Nat
  | .idle => 0
  | .waitSync => 1
  | .pretrig => 2
  | .posttrig => 3
  | .streaming => 4
  | .complete _ => 5

/-- The completion cause: none in every state but COMPLETE (R81, R191). -/
def CaptureState.causeCode : CaptureState → Nat
  | .complete c => c.code
  | _ => 0

/-- Status codes (R192). -/
def Status.code : Status → Nat
  | .ok => 0x00
  | .badCommand => 0x01
  | .badArg => 0x02
  | .locked => 0x03
  | .active => 0x04
  | .notActive => 0x05
  | .unread => 0x06
  | .notFound => 0x07
  | .tableFull => 0x08
  | .empty => 0x09
  | .markHeld => 0x0A
  | .noMark => 0x0B

/-! ### Records (R188) -/

def MarkerCause.code : MarkerCause → Nat
  | .forced => 0
  | .sequence => 1
  | .timeout => 2

/-- Byte 16 of a FRAME record: 0 to 3, or 4 for TRIGGERED. -/
def stageCode : Option (Fin 4) → Nat
  | some k => k.val
  | none => 4

/-- The zeros that pad the stored bytes to a whole unit. -/
def padding (stored : Nat) : List Byte := List.replicate ((stored + 7) / 8 * 8 - stored) 0

/-- A FRAME record: 32-byte header, stored bytes, padding. -/
def FrameRecord.bytes (r : FrameRecord) : List Byte :=
  [byte 1, byte (Record.frame r).units] ++ beBytes 2 r.number.toNat ++ beBytes 5 r.startTime.toNat
    ++ beBytes 3 r.duration ++ [byte r.target.code, byte r.kind.code, r.opcode, r.hits, byte (stageCode r.stage)]
    ++ [0, r.flagByte, byte (AddrBytes.toNat r.addrBytes)] ++ beBytes 4 (r.address.getD 0).toNat
    ++ beBytes 4 r.dataCount ++ beBytes 2 r.stored.length ++ [0, 0] ++ r.stored ++ padding r.stored.length

/-- The record format of READ RECORD and PEEK RECORD. -/
def Record.bytes : Record → List Byte
  | .frame r => r.bytes
  | .gap run =>
    [byte 2, byte 4] ++ beBytes 2 run.number.toNat ++ beBytes 5 run.startTime.toNat
      ++ List.replicate 15 0 ++ beBytes 4 run.count ++ List.replicate 4 0
  | .marker number time cause =>
    [byte 3, byte 4] ++ beBytes 2 number.toNat ++ beBytes 5 time.toNat
      ++ List.replicate 4 0 ++ [byte cause.code] ++ List.replicate 18 0

/-! ### Event entries (R189) -/

def ResetCause.code : ResetCause → Nat
  | .power => 0
  | .pin => 1
  | .soft => 2

def HoldOffCause.code : HoldOffCause → Nat
  | .space => 0
  | .limit => 1
  | .ended => 2

/-- Byte 6 of TRIGGERED's detail. -/
def TriggerSource.code : TriggerSource → Nat
  | .forced => 0
  | .sequence _ => 1
  | .timeout => 2

/-- Byte 7 of TRIGGERED's detail: the slot, 8 for X, 0xFF for none. -/
def TriggerSource.slotByte : TriggerSource → Nat
  | .sequence h => h.val
  | _ => 0xFF

/-- Bytes 6 to 9 of an event entry. -/
def Event.detail : Event → List Byte
  | .restarted c => [0, 0, 0, byte c.code]
  | .triggered src n => [byte src.code, byte src.slotByte] ++ beBytes 2 n
  | .sessionComplete c => [0, 0, 0, byte c.code]
  | .stageTimeout k a => [0, 0, byte k.val, byte a.code]
  | .holdOn n => beBytes 4 n
  | .holdOff c n => byte c.code :: beBytes 3 n
  | .holdExpired n => beBytes 4 n
  | .holdViolation n => [0, 0, 0, byte n.val]
  | .recordsLost n => beBytes 4 n
  | .cursorSkipped n => beBytes 4 n
  | .watermark n => beBytes 4 n
  | .syncSeen w => beBytes 4 w.toNat
  | .eventsLost n => beBytes 4 n

/-- An event entry's 10 bytes. -/
def Entry.bytes (e : Entry) : List Byte := byte e.event.code :: beBytes 5 e.time.toNat ++ e.event.detail

/-! ### Payloads (R190, R191) -/

/-- LINK CONTROL's three settings. -/
def linkPayload (tap : LinkTap) : List Byte :=
  [onOffByte tap.decodeEnable, onOffByte tap.idleLevel, byte tap.opcodeLanes.code]

/-- GET OPCODE ENTRY: opcode, position, the six fields in the order of PUT. -/
def entryPayload (position : Nat) (e : OpcodeEntry) : List Byte :=
  [e.opcode, byte position, byte e.kind.code, byte (AddrBytes.toNat e.addrBytes), byte e.addrWidth.code,
   byte e.wait.val, byte e.direction.code, byte e.dataWidth.code]

/-- The opcode condition's two bytes; with ANY the value reads 0. -/
def opcodeConditionBytes : Option Byte → List Byte
  | some v => [0, v]
  | none => [1, 0]

/-- The window's nine bytes; with the window absent the bounds read 0. -/
def windowBytes : Option (Word32 × Word32) → List Byte
  | some (low, high) => 1 :: beBytes 4 low.toNat ++ beBytes 4 high.toNat
  | none => List.replicate 9 0

/-- The slot layout as GET SLOT returns it. -/
def slotPayload (n : Nat) (f : Slot) : List Byte :=
  [byte n, onOffByte f.enabled, f.targets.setWidth 8, f.kinds.setWidth 8] ++ opcodeConditionBytes f.opcode
    ++ windowBytes f.window ++ [byte f.condition.code] ++ beBytes 4 f.v1.toNat ++ beBytes 4 f.v2.toNat
    ++ beBytes 4 f.mask.toNat ++ [f.anomalies.setWidth 8, byte f.scope.code]

/-- The stage layout, then N, as GET STAGE returns them. -/
def stagePayload (n : Nat) (g : Stage) (count : Nat) : List Byte :=
  [byte n] ++ beBytes 2 g.advance.toNat ++ beBytes 2 g.required ++ beBytes 2 g.restart.toNat
    ++ beBytes 3 g.timeout ++ [byte g.action.code, byte count]

/-- The setup layout as GET CAPTURE SETUP returns it. -/
def setupPayload (c : Setup) : List Byte :=
  [byte c.mode.code, onOffByte c.repeating] ++ beBytes 2 c.depth ++ beBytes 2 c.post ++ beBytes 2 c.keep
    ++ [byte c.policy.code] ++ beBytes 4 c.holdLimit
    ++ [c.filterKinds.setWidth 8, c.filterTargets.setWidth 8, c.qualifier, onOffByte c.anomaliesAlways]

/-- The timebase layout as SET TIMEBASE returns it. -/
def timebasePayload (tb : Timebase) : List Byte :=
  beBytes 3 tb.prescale ++
    [byte tb.role.code, onOffByte tb.syncAtArm, onOffByte tb.xtOut, byte tb.xtLen, onOffByte tb.xtIn]

/-- The STATUS layout, 33 bytes (R165, R191). -/
def statusPayload (s : State) : List Byte :=
  [byte s.cc.state.code, byte s.cc.state.causeCode, byte s.seq.state.code, byte s.seq.stage.val]
    ++ beBytes 2 s.seq.occ
    ++ [statusFlagByte s.holdPin s.tm.holdSpent s.ru.mark.isSome s.tap.decodeEnable]
    ++ beBytes 2 s.unread ++ beBytes 2 s.tm.trace.length ++ beBytes 2 s.tm.free
    ++ beBytes 4 s.cc.seen ++ beBytes 4 s.cc.qualified ++ beBytes 4 s.cc.appended ++ beBytes 4 s.cc.lost
    ++ beBytes 2 s.seq.trigCount ++ [byte s.sp.queue.length, byte s.tb.role.code]

/-- A kind cell: 4-byte frame count, 5-byte byte count. -/
def TallyCell.layout (c : TallyCell) : List Byte := beBytes 4 c.frames ++ beBytes 5 c.bytes

/-- The tally row layout for rows 0 to 3, 72 bytes. -/
def tallyRowPayload (n : Nat) (time : Time) (r : TallyRow) : List Byte :=
  byte n :: beBytes 5 time.toNat ++ (r.cells.toList.map TallyCell.layout).flatten
    ++ beBytes 4 r.truncated ++ beBytes 4 r.residue ++ beBytes 4 r.excess

/-- The tally row layout for row 4, 10 bytes. -/
def tallyCollisionPayload (time : Time) (collisions : Nat) : List Byte :=
  byte 4 :: beBytes 5 time.toNat ++ beBytes 4 collisions

/-- What a reply sends after the pending bytes: marker, status, payload length, payload (R161). -/
def Reply.bytes (r : Reply) : List Byte :=
  [0x5A, byte r.status.code] ++ beBytes 2 r.payload.length ++ r.payload

/-- What the part drives on S_DO (R156, R158, R161, R163): nothing while S_SEL is negated or in RESET, 0xFF
outside the reply phase, pending bytes before the reply is ready, then the reply. -/
inductive ServiceOut where
  | released
  | ones
  | pendingBytes
  | sending (bytes : List Byte)
deriving DecidableEq, Repr

def State.sDo (s : State) : ServiceOut :=
  match s.sp.frame with
  | .reset => .released
  | .noFrame => .released
  | .command _ => .ones
  | .trailer => .ones
  | .ignoring => .ones
  | .reply =>
    match s.sp.ready, s.sp.reply with
    | true, some r => .sending r.bytes
    | _, _ => .pendingBytes

end Sys2Proof.Machine
end

