-- ==== Sys2Proof/Machine/Capture.lean ====
section
/-! DEFINITION. The Capture Controller's and the Trace Memory's shared operations: judging an offer, appending
it, losing a frame, completing a session, placing a trigger (chapters 5 and 6). -/

namespace Sys2Proof.Machine
open Sys2Proof

/-! ### Judging an offer (R105, R106) -/

/-- The records from the oldest up to and including the oldest pre-trigger FRAME record (R106, step 1). -/
def discardsForDepth (trace : List Held) : Nat :=
  match trace.findIdx? fun h => h.pre with
  | some i => i + 1
  | none => 0

/-- How many more of the oldest records must go until `need` units are free, `free` being free already
(R106, step 2). -/
def discardsForRoom (need : Nat) : Nat → List Held → Nat
  | _, [] => 0
  | free, h :: rest => if need ≤ free then 0 else discardsForRoom need (free + h.record.units) rest + 1

/-- The number of records a PRETRIG offer of `units` requires to go (R106); `forDepth` says that the
pre-trigger accounting requires a discard for P (R94). -/
def requiredDiscards (units : Nat) (forDepth : Bool) (tm : TraceMemory) : Nat :=
  let first := if forDepth then discardsForDepth tm.trace else 0
  first + discardsForRoom units (tm.free + unitsOf (tm.trace.take first)) (tm.trace.drop first)

/-- The judgement of an offer: `some k` grants it after `k` discards, `none` refuses it (R105). Offers reach
the Trace Memory in the storing states alone (6.2). -/
def judgeOffer (units : Nat) (forDepth : Bool) (s : State) : Option Nat :=
  match s.cc.state with
  | .pretrig =>
    let k := requiredDiscards units forDepth s.tm
    match s.ru.mark with
    | some m => if m < k then none else some k
    | none => some k
  | .posttrig => if units ≤ s.tm.free then some 0 else none
  | .streaming => if units ≤ s.tm.free then some 0 else none
  | _ => none

/-- The units an offer needs: the record's, and 4 more for the GAP record of a pending loss run (R97). -/
def offerUnits (r : Record) (s : State) : Nat :=
  (if s.cc.loss.isSome then Config.headerUnits else 0) + r.units

/-- Appends the GAP record of the pending loss run, if there is one, which becomes absent (R97). -/
def appendGap (s : State) : State :=
  match s.cc.loss with
  | none => s
  | some run =>
    let t := appendRecord (.gap run) false s
    { t with cc := { t.cc with loss := none } }

/-- A granted offer: the discards, the GAP record of a pending run, the record (R97, R103, R106). A
pre-trigger FRAME record raises the pre-trigger record count (R94). -/
def grantOffer (r : Record) (pre : Bool) (k : Nat) (s : State) : State :=
  let t := appendRecord r pre (appendGap (if k = 0 then s else discardOldest k s))
  { t with cc := { t.cc with preCount := t.cc.preCount + (if pre then 1 else 0) } }

/-- An offer, granted or refused whole (R97); a refused one leaves the trace as it was (R105). -/
def offer (r : Record) (pre : Bool) (s : State) : Bool × State :=
  match judgeOffer (offerUnits r s) (pre && decide (s.cc.setup.depth ≤ s.cc.preCount)) s with
  | some k => (true, grantOffer r pre k s)
  | none => (false, s)

/-! ### Losses and completion (R98, R99, R110) -/

/-- A frame whose offer is refused is lost (R98). -/
def loseFrame (number : BitVec 16) (startTime : Time) (s : State) : State :=
  let run : LossRun :=
    match s.cc.loss with
    | none => { number := number, startTime := startTime, count := 1 }
    | some run => { run with count := satAdd Config.max32 run.count 1 }
  raiseEvent (.recordsLost 1)
    { s with cc := { s.cc with lost := satAdd Config.max32 s.cc.lost 1, loss := some run } }

/-- Clears the current frame's session-membership and trigger-pending indications (R84, R86, R99). -/
def Capture.leaveFrame (c : Capture) : Capture :=
  { c with current := c.current.map fun f => { f with member := false, pending := false } }

/-- The completion offer of a lone GAP record: granted if 4 units are free, dropped otherwise; either way the
pending run becomes absent (R99, R110). -/
def completionGap (s : State) : State :=
  if Config.headerUnits ≤ s.tm.free then appendGap s
  else { s with cc := { s.cc with loss := none } }

/-- The completion of a session (R99); the sequencer goes to IDLE (R63). -/
def completeSession (cause : Cause) (s : State) : State :=
  let left := completionGap { s with cc := s.cc.leaveFrame }
  let done := raiseEvent (.sessionComplete cause) { left with cc := { left.cc with state := .complete cause } }
  { done with seq := done.seq.toIdle }

/-- The end of PRETRIG, once the offer of the trigger record or MARKER has been decided (R93). -/
def triggerPlaced (s : State) : State :=
  if s.cc.setup.post = 0 then completeSession .count s
  else { s with cc := { s.cc with state := .posttrig } }

/-- Under the policy STOP a refusal in POSTTRIG or STREAMING completes the session FULL (R109); under DROP and
HOLD it changes nothing (R107, R108). -/
def refusedForRoom (s : State) : State :=
  if s.cc.setup.policy = .stop then completeSession .full s else s

/-- The append of a FRAME record in POSTTRIG counts toward Q (R95). -/
def countPost (s : State) : State :=
  let t := { s with cc := { s.cc with postCount := satAdd Config.max16 s.cc.postCount 1 } }
  if t.cc.postCount = t.cc.setup.post then completeSession .count t else t

/-- The offer of a qualified frame's record and what follows it in each storing state (R93, R94, R95, R97,
R98, R99). `trigger` says that the frame is the trigger frame. -/
def offerFrame (r : FrameRecord) (trigger : Bool) (s : State) : State :=
  match s.cc.state with
  | .pretrig =>
    let (granted, t) := offer (.frame r) (!trigger) s
    let u := if granted then t else loseFrame r.number r.startTime t
    if trigger then triggerPlaced u else u
  | .posttrig =>
    let (granted, t) := offer (.frame r) false s
    if granted then countPost t else refusedForRoom (loseFrame r.number r.startTime t)
  | .streaming =>
    let (granted, t) := offer (.frame r) false s
    if granted then t else refusedForRoom (loseFrame r.number r.startTime t)
  | _ => s

/-- The cause a MARKER carries (R91). -/
def TriggerSource.markerCause : TriggerSource → MarkerCause
  | .forced => .forced
  | .sequence _ => .sequence
  | .timeout => .timeout

/-- The MARKER of a trigger declared between frames, offered at the declaration (R91, R92, R93). A refused
MARKER is counted nowhere (R98). -/
def offerMarker (source : TriggerSource) (s : State) : State :=
  let marker := Record.marker s.cc.nextFrame s.tb.time source.markerCause
  match s.cc.state with
  | .pretrig => triggerPlaced (offer marker false s).2
  | .posttrig =>
    let (granted, t) := offer marker false s
    if granted then t else refusedForRoom t
  | .streaming =>
    let (granted, t) := offer marker false s
    if granted then t else refusedForRoom t
  | _ => s

/-- Places a declared trigger: on the current frame if it is a member, else as a MARKER (R92). -/
def placeTrigger (source : TriggerSource) (s : State) : State :=
  match s.cc.current with
  | some f =>
    if f.member then { s with cc := { s.cc with current := some { f with pending := true } } }
    else offerMarker source s
  | none => offerMarker source s

/-! ### A frame's start and end at the Capture Controller (R88, R89, R90) -/

/-- The Capture Controller takes a frame start (R88). -/
def Capture.takeFrameStart (c : Capture) : Capture :=
  if c.state.storing then
    { c with current := some { number := some c.nextFrame, member := true, pending := false },
             nextFrame := c.nextFrame + 1 }
  else { c with current := some { number := none, member := false, pending := false } }

/-- The bit of a target set that a target meets: 0 to 3, or 4 for MULTIPLE (R39, R192). -/
def Target.bit : Target → Nat
  | .sel n => n.val
  | .multiple => 4

/-- The kind of a frame: its entry's, or UNLISTED (R24, R34). -/
def FrameContext.kind (ctx : FrameContext) : Kind :=
  match ctx.entry with
  | some e => e.kind
  | none => .unlisted

/-- The address byte count: the entry's, or 0 (R24, R34). -/
def FrameContext.addrBytes (ctx : FrameContext) : AddrBytes :=
  match ctx.entry with
  | some e => e.addrBytes
  | none => .zero

/-- The target, or the opening select's number before the first pulse (R11). -/
def FrameContext.targetNow (ctx : FrameContext) : Target := ctx.target.getD (.sel ctx.openingSelect)

/-- Whether a member frame that ends qualifies (R89). -/
def qualifies (c : Capture) (ctx : FrameContext) (hits : BitVec 8) (trigger : Bool) : Bool :=
  trigger ||
    (!(decide (c.setup.mode = .window) && decide (c.setup.depth = 0) && decide (c.state = .pretrig)) &&
      ((c.setup.anomaliesAlways && decide (ctx.anomalies ≠ 0)) ||
        (c.setup.filterKinds.getLsbD ctx.kind.code && c.setup.filterTargets.getLsbD ctx.targetNow.bit &&
          (decide (c.setup.qualifier = 0) || decide (c.setup.qualifier &&& hits ≠ 0)))))

/-- The stage the sequencer reports for the record: `none` for TRIGGERED (R76). -/
def Sequencer.reported (q : Sequencer) : Option (Fin 4) :=
  if q.state = .triggered then none else some q.stage

/-- The FRAME record of a closed context (R90). -/
def frameRecord (ctx : FrameContext) (number : BitVec 16) (hits : BitVec 8) (stage : Option (Fin 4))
    (trigger : Bool) : FrameRecord :=
  { number := number, startTime := ctx.startTime, duration := ctx.duration, target := ctx.targetNow,
    opcode := ctx.opcode.getD 0, kind := ctx.kind, addrBytes := ctx.addrBytes, address := ctx.address,
    dataCount := ctx.dataCount, stored := ctx.stored, hits := hits, stage := stage, trigger := trigger,
    truncated := ctx.truncated, residue := ctx.residue, excess := ctx.excess, collision := ctx.collision,
    timeReset := ctx.timeReset, holdViolation := ctx.holdViolation }

/-- What the end of a member frame brings in a storing state: seen, judged, and recorded or lost if it
qualifies (R88, R89, R100). -/
def memberFrameEnd (ctx : FrameContext) (hits : BitVec 8) (f : CurrentFrame) (s : State) : State :=
  let t := { s with cc := { s.cc with seen := satAdd Config.max32 s.cc.seen 1 } }
  if qualifies s.cc ctx hits f.pending then
    offerFrame (frameRecord ctx (f.number.getD 0) hits s.seq.reported f.pending) f.pending
      { t with cc := { t.cc with qualified := satAdd Config.max32 t.cc.qualified 1 } }
  else t

/-- The Capture Controller acts on a frame's end, then makes the current frame absent (R88). -/
def captureFrameEnd (ctx : FrameContext) (hits : BitVec 8) (s : State) : State :=
  let t :=
    match s.cc.current with
    | some f => if f.member && s.cc.state.storing then memberFrameEnd ctx hits f s else s
    | none => s
  { t with cc := { t.cc with current := none } }

end Sys2Proof.Machine
end

