-- ==== Sys2Proof/Machine/Trigger.lean ====
section
/-! DEFINITION. The Trigger Sequencer's shared operations: declaring the trigger, taking hits and groups of
hits, stage completion and expiry (chapter 4). -/

namespace Sys2Proof.Machine
open Sys2Proof

/-- The descriptor of the stage in force. -/
def Sequencer.current (q : Sequencer) : Stage := q.stages.get q.stage

/-- The post-trigger state, from the setup of the session (R75). Where the declaration itself has ended the
session, the sequencer is already IDLE and stays so (R63, log 16). -/
def postTrigger (s : State) : State :=
  if s.seq.state = .idle then s
  else if s.cc.setup.mode = .stream ∧ s.cc.setup.repeating then { s with seq := s.seq.enter 0 }
  else { s with seq := s.seq.toTriggered }

/-- The declaration of the trigger, its five steps in order (R74). -/
def declareTrigger (source : TriggerSource) (s : State) : State :=
  let counted := { s with seq := { s.seq with trigCount := satAdd Config.max16 s.seq.trigCount 1 } }
  let raised := raiseEvent (.triggered source counted.seq.trigCount) counted
  postTrigger (pulseXt (placeTrigger source raised))

/-- A complete stage: an advance below the last stage, the trigger at the last (R67). -/
def completeStage (source : TriggerSource) (s : State) : State :=
  if h : s.seq.stage.val + 1 < s.seq.count ∧ s.seq.stage.val + 1 < 4 then
    { s with seq := s.seq.enter ⟨s.seq.stage.val + 1, h.2⟩ }
  else declareTrigger source s

/-- A hit, a slot 0 to 7 or X as 8, taken in WATCHING by the sets of the stage in force; in IDLE and TRIGGERED
it has no effect (R64, R66). -/
def takeHit (hit : Fin 9) (s : State) : State :=
  if s.seq.state = .watching then
    if s.seq.current.restart.getLsbD hit.val then { s with seq := s.seq.enter 0 }
    else if s.seq.current.advance.getLsbD hit.val then
      let t := { s with seq := { s.seq with occ := s.seq.occ + 1 } }
      if t.seq.occ = t.seq.current.required then completeStage (.sequence hit) t else t
    else s
  else s

/-- The slots as hits, in slot number order. -/
def slotHits : List (Fin 9) := [0, 1, 2, 3, 4, 5, 6, 7]

/-- The order in which a group's hits are taken: those in the restart set of the stage in force when it
arrives, then the rest, each in slot number order (R65). -/
def groupOrder (restart : BitVec 9) (group : BitVec 8) : List (Fin 9) :=
  (slotHits.filter fun h => group.getLsbD h.val && restart.getLsbD h.val) ++
    (slotHits.filter fun h => group.getLsbD h.val && !restart.getLsbD h.val)

/-- A group of slot hits from a frame whose start was the `start`-th announced: taken while WATCHING, if the
frame began after the session start point (R64, R65). -/
def takeGroup (start : Nat) (group : BitVec 8) (s : State) : State :=
  if s.seq.state = .watching ∧ s.seq.sessionStart < start then
    (groupOrder s.seq.current.restart group).foldl (fun t h => takeHit h t) s
  else s

/-- Whether the stage timer has counted the stage's timeout (R70); it is stopped in IDLE and TRIGGERED. -/
def Sequencer.expired (q : Sequencer) : Bool :=
  decide (q.state = .watching) &&
    match q.timer with
    | some t => decide (q.current.timeout ≤ t)
    | none => false

/-- The expiry of the stage timer (R71). -/
def expireStage (s : State) : State :=
  let g := s.seq.current
  let t := raiseEvent (.stageTimeout s.seq.stage g.action) s
  match g.action with
  | .restart => { t with seq := t.seq.enter 0 }
  | .advance => completeStage .timeout t

end Sys2Proof.Machine
end

