-- ==== Sys2Proof/Machine/Matching.lean ====
section
/-! DEFINITION. The Match Unit: which frames are evaluated, what each evaluation point asks of a slot, and the
groups of hits it hands over (chapter 3). -/

namespace Sys2Proof.Machine
open Sys2Proof

/-- The eight slot numbers. -/
def slotNumbers : List (Fin 8) := [0, 1, 2, 3, 4, 5, 6, 7]

/-- A slot's progress at frame start (R46). -/
def SlotProgress.fresh : SlotProgress := { done := false, words := 0, openPair := false }

/-- At a frame start in a storing state the evaluation opens, with the slots copied; otherwise the frame is
not evaluated (R45, R46). `start` is the moment of the frame start. -/
def MatchUnit.takeFrameStart (m : MatchUnit) (storing : Bool) (start : Nat) : MatchUnit :=
  { m with
    eval :=
      if storing then
        some { copy := m.slots, start := start, progress := Vector.replicate 8 SlotProgress.fresh, hits := 0 }
      else none }

/-- A slot's frame conditions (R39). -/
def Slot.frameMeets (f : Slot) (ctx : FrameContext) : Bool :=
  f.enabled && f.targets.getLsbD ctx.targetNow.bit && f.kinds.getLsbD ctx.kind.code &&
    match f.opcode with
    | none => true
    | some v => decide (ctx.opcode = some v)

/-- A slot's address window against the address to be compared, if there is one (R40). -/
def Slot.windowMeets (f : Slot) (address : Option Word32) : Bool :=
  match f.window with
  | none => true
  | some (low, high) =>
    match address with
    | none => false
    | some a => decide (low ≤ a) && decide (a ≤ high)

/-- A word agrees with a value under the mask (R41). -/
def agrees (mask word value : Word32) : Bool := decide (word &&& mask = value &&& mask)

/-- A data word as handed over: its value, whether it is the frame's first, how many bytes are present, its
word address (R28, R33). -/
structure DataWord where
  value : Word32
  first : Bool
  bytes : Nat
  address : Option Word32
deriving DecidableEq, Repr

/-- Whether a slot compares a word: a partial word only if the mask selects no bit of an absent byte (R50). -/
def Slot.compares (f : Slot) (w : DataWord) : Bool :=
  decide (f.mask.toNat % 2 ^ (8 * (4 - w.bytes)) = 0)

/-- A NONE slot at its evaluation point (R47). -/
def noneAt (ctx : FrameContext) (f : Slot) (p : SlotProgress) : SlotProgress × Bool :=
  (p, decide (f.condition = .none) && f.frameMeets ctx && f.windowMeets ctx.address)

/-- A WORD slot at a data word (R48). -/
def wordStep (ctx : FrameContext) (w : DataWord) (f : Slot) (p : SlotProgress) : SlotProgress × Bool :=
  ({ p with words := p.words + 1 },
   (decide (f.scope = .any) || decide (p.words = 0)) && f.frameMeets ctx && agrees f.mask w.value f.v1 &&
     f.windowMeets w.address)

/-- A PAIR slot at a data word: first it closes an open pair, then, if it has not hit, it judges whether a
whole word opens a new one (R49). -/
def pairStep (ctx : FrameContext) (w : DataWord) (f : Slot) (p : SlotProgress) : SlotProgress × Bool :=
  if f.scope = .first ∧ 2 ≤ p.words then (p, false)
  else
    let mayClose := decide (f.scope = .any) || decide (p.words = 1)
    let mayOpen := (decide (f.scope = .any) || decide (p.words = 0)) && decide (w.bytes = 4)
    let hit := p.openPair && mayClose && f.frameMeets ctx && agrees f.mask w.value f.v2
    let opens := !hit && mayOpen && agrees f.mask w.value f.v1 && f.windowMeets w.address
    ({ p with words := p.words + 1, openPair := opens }, hit)

/-- A slot at a data word (R48, R49, R50). -/
def wordAt (ctx : FrameContext) (w : DataWord) (f : Slot) (p : SlotProgress) : SlotProgress × Bool :=
  if f.compares w then
    match f.condition with
    | .word => wordStep ctx w f p
    | .pair => pairStep ctx w f p
    | _ => (p, false)
  else (p, false)

/-- An ANOMALY slot at frame end (R51). -/
def anomalyAt (ctx : FrameContext) (f : Slot) (p : SlotProgress) : SlotProgress × Bool :=
  (p, decide (f.condition = .anomaly) && f.frameMeets ctx && decide (f.anomalies &&& ctx.anomalies ≠ 0))

/-- One slot at one point: a slot that is done is not evaluated; a slot that hits is done and its open pair
is dropped (R52). -/
def slotPoint (point : Slot → SlotProgress → SlotProgress × Bool) (f : Slot) (p : SlotProgress) :
    SlotProgress × Bool :=
  if p.done then (p, false)
  else
    let r := point f p
    if r.2 then ({ r.1 with done := true, openPair := false }, true) else (r.1, false)

/-- The group of slots that hit at a point (R53). -/
def Evaluation.group (e : Evaluation) (point : Slot → SlotProgress → SlotProgress × Bool) : BitVec 8 :=
  slotSet fun i => (slotPoint point (e.copy.get i) (e.progress.get i)).2

/-- The evaluation after a point: each slot's progress, and the hit set with the group added (R52). -/
def Evaluation.after (e : Evaluation) (point : Slot → SlotProgress → SlotProgress × Bool) : Evaluation :=
  { e with
    progress := Vector.ofFn fun i => (slotPoint point (e.copy.get i) (e.progress.get i)).1
    hits := e.hits ||| e.group point }

/-- An evaluation point of the frame in progress: its group is handed to the Trigger Sequencer before the
next report; a frame that is not evaluated gives none (R45, R53). -/
def evaluate (point : Slot → SlotProgress → SlotProgress × Bool) (s : State) : State :=
  match s.mu.eval with
  | none => s
  | some e => takeGroup e.start (e.group point) { s with mu := { s.mu with eval := some (e.after point) } }

/-- The hit set handed over at frame end: empty for a frame not evaluated (R45, R54). -/
def MatchUnit.hitSet (m : MatchUnit) : BitVec 8 :=
  match m.eval with
  | none => 0
  | some e => e.hits

end Sys2Proof.Machine
end

