-- ==== Sys2Proof/Machine/Decoder.lean ====
section
/-! DEFINITION. The Link Tap's decoder: what a pulse does in each decoding state, the frame's start, its end
and its abandonment, and the tally's count of it (chapters 1, 2 and 10). -/

namespace Sys2Proof.Machine
open Sys2Proof

/-- The position whose entry has an opcode value, if one exists. -/
def OpcodeTable.position (t : OpcodeTable) (opcode : Byte) : Option (Fin 32) :=
  (List.finRange 32).find? fun i => ((t.get i).map OpcodeEntry.opcode) == some opcode

/-- The entry with an opcode value, if one exists (R22). -/
def OpcodeTable.lookup (t : OpcodeTable) (opcode : Byte) : Option OpcodeEntry :=
  match t.position opcode with
  | some i => t.get i
  | none => none

/-- The lowest-numbered free position (R19). -/
def OpcodeTable.freePosition (t : OpcodeTable) : Option (Fin 32) :=
  (List.finRange 32).find? fun i => (t.get i).isNone

/-! ### Moves between decoding states (R23) -/

/-- DATA or TRAIL, according to the direction. -/
def lastPhase (e : OpcodeEntry) : Decoding :=
  match e.direction with
  | .none => .trail
  | .toMemory => .data 0 0
  | .fromMemory => .data 0 0

/-- After the address: WAIT, or the last phase. -/
def afterAddress (e : OpcodeEntry) : Decoding := if e.wait.val = 0 then lastPhase e else .wait 0

/-- After the opcode: ADDRESS, WAIT or the last phase; OPAQUE with no entry. -/
def afterOpcode : Option OpcodeEntry → Decoding
  | none => .unlisted
  | some e => if e.addrBytes = .zero then afterAddress e else .address 0 0

/-! ### Pulses (R8, R9, R24 to R31) -/

/-- What the next pulse of a frame brings about: the row of the opcode table that stands for it. -/
inductive PulseRow where
  | sampled | opcodeDone | addressDone | waitOver | byteDone | trail | unlisted
deriving DecidableEq, Repr

/-- The lanes' width in a phase of the copied entry. -/
def FrameContext.addrWidth (ctx : FrameContext) : Width := (ctx.entry.map OpcodeEntry.addrWidth).getD .one

def FrameContext.dataWidth (ctx : FrameContext) : Width := (ctx.entry.map OpcodeEntry.dataWidth).getD .one

def FrameContext.waitPulses (ctx : FrameContext) : Nat := (ctx.entry.map fun e => e.wait.val).getD 0

/-- The row the next pulse is: it completes the opcode, the address, the wait or a byte, falls in TRAIL or
OPAQUE, or completes nothing. -/
def FrameContext.nextPulse (ctx : FrameContext) : PulseRow :=
  match ctx.decoding with
  | .opcode bits _ => if 8 ≤ bits + ctx.opcodeLanes.bits then .opcodeDone else .sampled
  | .address bits _ =>
    if 8 * AddrBytes.toNat ctx.addrBytes ≤ bits + ctx.addrWidth.bits then .addressDone else .sampled
  | .wait pulses => if ctx.waitPulses ≤ pulses + 1 then .waitOver else .sampled
  | .data bits _ => if 8 ≤ bits + ctx.dataWidth.bits then .byteDone else .sampled
  | .trail => .trail
  | .unlisted => .unlisted

/-- The target is decided at the frame's first pulse: MULTIPLE if more than one select is asserted at it,
else the opening select's number (R11). -/
def FrameContext.decideTarget (ctx : FrameContext) (selects : BitVec 4) : FrameContext :=
  match ctx.target with
  | some _ => ctx
  | none =>
    { ctx with
      target := some (if 1 < (List.finRange 4).countP (fun i => selects.getLsbD i.val) then .multiple
                      else .sel ctx.openingSelect) }

/-- Puts the frame context in. -/
def setContext (ctx : FrameContext) (s : State) : State :=
  { s with tap := { s.tap with boundary := .inFrame ctx } }

/-- A pulse that completes nothing: its bits are shifted in, or it is counted in WAIT. -/
def FrameContext.shifted (ctx : FrameContext) (l : LinkLanes) : FrameContext :=
  match ctx.decoding with
  | .opcode bits acc =>
    { ctx with decoding := .opcode (bits + ctx.opcodeLanes.bits) (shiftIn acc ctx.opcodeLanes.bits l) }
  | .address bits acc =>
    { ctx with decoding := .address (bits + ctx.addrWidth.bits) (shiftIn acc ctx.addrWidth.bits l) }
  | .wait pulses => { ctx with decoding := .wait (pulses + 1) }
  | .data bits acc =>
    { ctx with decoding := .data (bits + ctx.dataWidth.bits) (shiftIn acc ctx.dataWidth.bits l) }
  | .trail => ctx
  | .unlisted => ctx

/-- The opcode value the completing pulse gives (R24). -/
def FrameContext.opcodeValue (ctx : FrameContext) (l : LinkLanes) : Byte :=
  match ctx.decoding with
  | .opcode _ acc => shiftIn acc ctx.opcodeLanes.bits l
  | _ => 0

/-- The opcode is complete: looked up, recorded with its entry copy, and the decoder moves (R22, R23, R24). -/
def FrameContext.withOpcode (ctx : FrameContext) (l : LinkLanes) (table : OpcodeTable) : FrameContext :=
  let entry := table.lookup (ctx.opcodeValue l)
  { ctx with opcode := some (ctx.opcodeValue l), entry := entry, decoding := afterOpcode entry }

/-- The completed opcode is reported; for frames with 0 address bytes and UNLISTED frames this is the point of
NONE slots (R24, R36, R47). -/
def takeOpcodeDone (ctx : FrameContext) (l : LinkLanes) (s : State) : State :=
  let done := ctx.withOpcode l s.opTable
  let t := setContext done s
  if done.addrBytes = .zero then evaluate (noneAt done) t else t

/-- The address is complete: recorded, and the decoder moves (R23, R25). -/
def FrameContext.withAddress (ctx : FrameContext) (l : LinkLanes) : FrameContext :=
  match ctx.decoding, ctx.entry with
  | .address _ acc, some e =>
    { ctx with address := some (shiftIn acc ctx.addrWidth.bits l), decoding := afterAddress e }
  | _, _ => ctx

/-- The completed address is reported to the NONE slots (R25, R47). -/
def takeAddressDone (ctx : FrameContext) (l : LinkLanes) (s : State) : State :=
  let done := ctx.withAddress l
  evaluate (noneAt done) (setContext done s)

/-- The wait is done, and the decoder moves to DATA or TRAIL (R23, R26). -/
def FrameContext.withWaitDone (ctx : FrameContext) : FrameContext :=
  match ctx.entry with
  | some e => { ctx with decoding := lastPhase e }
  | none => ctx

/-- The value of the bytes of a word, the first the most significant, absent bytes 0 (R28, R33). -/
def wordValue (bytes : List Byte) : Word32 :=
  (bytes.getD 0 0) ++ (bytes.getD 1 0) ++ (bytes.getD 2 0) ++ (bytes.getD 3 0)

/-- An address modulo 2^(8 x address bytes) (R28). -/
def wrapAddress (n : AddrBytes) (a : Word32) : Word32 := BitVec.ofNat 32 (a.toNat % 2 ^ (8 * AddrBytes.toNat n))

/-- The word being built, as it is handed over (R28, R33). -/
def FrameContext.dataWord (ctx : FrameContext) : DataWord :=
  { value := wordValue ctx.word, first := ctx.firstWord, bytes := ctx.word.length,
    address := ctx.address.map fun a => wrapAddress ctx.addrBytes (a + ctx.wordOffset) }

/-- The byte the completing pulse gives (R27). -/
def FrameContext.byteValue (ctx : FrameContext) (l : LinkLanes) : Byte :=
  match ctx.decoding with
  | .data _ acc => shiftIn acc ctx.dataWidth.bits l
  | _ => 0

/-- A data byte is complete: counted, kept within the store limit, placed in the word being built (R27, R29). -/
def FrameContext.withByte (ctx : FrameContext) (b : Byte) : FrameContext :=
  { ctx with
    decoding := .data 0 0
    dataCount := satAdd Config.max32 ctx.dataCount 1
    stored := if ctx.stored.length < ctx.storeLimit then ctx.stored ++ [b] else ctx.stored
    word := ctx.word ++ [b] }

/-- The word is handed over, and the next one begins (R28). -/
def FrameContext.nextWord (ctx : FrameContext) : FrameContext :=
  { ctx with word := [], wordOffset := ctx.wordOffset + 4, firstWord := false }

/-- A completed byte; the fourth of a word hands the word to the Match Unit (R27, R28). -/
def takeByteDone (ctx : FrameContext) (l : LinkLanes) (s : State) : State :=
  let done := ctx.withByte (ctx.byteValue l)
  if 4 ≤ done.word.length then evaluate (wordAt done done.dataWord) (setContext done.nextWord s)
  else setContext done s

/-- A pulse in TRAIL sets EXCESS (R30). -/
def FrameContext.withExcess (ctx : FrameContext) : FrameContext := { ctx with excess := true }

/-- A pulse in OPAQUE raises the data count (R31). -/
def FrameContext.withOpaquePulse (ctx : FrameContext) : FrameContext :=
  { ctx with dataCount := satAdd Config.max32 ctx.dataCount 1 }

/-- The link as its two sides drive it: H_CLK at a level, and the lanes (R1). -/
def drivePins (link : LinkLevels) (s : State) : State := { s with hClk := link.clock, lanes := link.lanes }

/-- Whether H_CLK going from one level to another is a sampling edge of the frame: a transition away from the
copied idle level. With the clock away already, it must first return (R6, R8). -/
def FrameContext.isSamplingEdge (ctx : FrameContext) (before after : Bool) : Bool :=
  decide (before = ctx.idleLevel) && decide (after ≠ ctx.idleLevel)

/-- A pulse of the frame, handed to the decoding state in force (R8). -/
def takePulse (l : LinkLanes) (ctx : FrameContext) (s : State) : State :=
  let now := ctx.decideTarget s.hSel
  match now.nextPulse with
  | .sampled => setContext (now.shifted l) s
  | .opcodeDone => takeOpcodeDone now l s
  | .addressDone => takeAddressDone now l s
  | .waitOver => setContext now.withWaitDone s
  | .byteDone => takeByteDone now l s
  | .trail => setContext now.withExcess s
  | .unlisted => setContext now.withOpaquePulse s

/-- The named pulse rows: the sampling edge comes with H_CLK at rest, the pulse is taken where it is the one the
row names, and the happening does not come about elsewhere (R8, log 4, log 5). -/
def takeNamedPulse (row : PulseRow) (l : LinkLanes) (s : State) : State :=
  match s.tap.boundary with
  | .inFrame ctx =>
    if s.hClk = ctx.idleLevel ∧ ctx.nextPulse = row then
      happening (takePulse l ctx) (drivePins { clock := !ctx.idleLevel, lanes := l } s)
    else s
  | _ => s

/-! ### Frame start (R10, R17, R45, R88, R118) -/

/-- The frame context opened at frame start (R10). -/
def openContext (n : Fin 4) (s : State) : FrameContext :=
  { openingSelect := n, target := none, startTime := s.tb.time, duration := 0, idleLevel := s.tap.idleLevel,
    opcodeLanes := s.tap.opcodeLanes, holdViolation := s.holdPin, timeReset := false,
    decoding := .opcode 0 0, opcode := none, entry := none, address := none, dataCount := 0,
    storeLimit := if s.cc.state.storing then s.cc.setup.keep else 0, stored := [], word := [],
    wordOffset := 0, firstWord := true, truncated := false, residue := false, excess := false,
    collision := false }

/-- The Trace Memory's part: the first frame start of an episode made while HOLD is asserted raises
HOLD_VIOLATION (R118). -/
def reportViolation (n : Fin 4) (s : State) : State :=
  match s.tm.episode with
  | some e =>
    if e.violated then s
    else raiseEvent (.holdViolation n) { s with tm := { s.tm with episode := some { e with violated := true } } }
  | none => s

/-- A frame begins: the context is opened, and the start announced to the Match Unit and the Capture
Controller (R10). -/
def beginFrame (n : Fin 4) (s : State) : State :=
  let start := s.tap.frameStarts + 1
  reportViolation n
    { s with
      tap := { s.tap with boundary := .inFrame (openContext n s), frameStarts := start }
      mu := s.mu.takeFrameStart s.cc.state.storing start
      cc := s.cc.takeFrameStart }

/-! ### Frame end (R12, R32 to R37, R151, R180) -/

/-- Adds one to a saturating 32-bit count when a flag is set. -/
def bump (n : Nat) (flag : Bool) : Nat := if flag then satAdd Config.max32 n 1 else n

/-- A kind's place among the six cells of a row. -/
def Kind.cell : Kind → Fin 6
  | .read => 0
  | .write => 1
  | .erase => 2
  | .control => 3
  | .status => 4
  | .unlisted => 5

/-- A frame with a numbered target adds to that target's row (R180, R183). -/
def TallyRow.count (r : TallyRow) (ctx : FrameContext) : TallyRow :=
  let cell := r.cells.get ctx.kind.cell
  { cells := r.cells.set ctx.kind.cell
      { frames := satAdd Config.max32 cell.frames 1, bytes := satAdd Config.max40 cell.bytes ctx.dataCount }
    truncated := bump r.truncated ctx.truncated
    residue := bump r.residue ctx.residue
    excess := bump r.excess ctx.excess }

/-- The live table after a delivered frame (R180, R181). -/
def TallyTable.count (t : TallyTable) (ctx : FrameContext) : TallyTable :=
  { rows := match ctx.targetNow with
      | .sel n => t.rows.set n ((t.rows.get n).count ctx)
      | .multiple => t.rows
    collisions := bump t.collisions ctx.collision }

/-- The Activity Tally takes a closed context: counted while the enable is on (R180, R182). -/
def Tally.takeFrame (a : Tally) (ctx : FrameContext) : Tally :=
  if a.enable then { a with live := a.live.count ctx } else a

/-- The context as it is settled at frame end (R11, R32, R33, R34, R151). -/
def FrameContext.closed (ctx : FrameContext) (timeResetPending : Bool) : FrameContext :=
  { ctx with
    target := some ctx.targetNow
    truncated := truncatedAtEnd ctx
    residue := residueAtEnd ctx
    timeReset := timeResetPending }

/-- Whether the frame ends in DATA with bytes placed in a word not yet complete (R33). -/
def FrameContext.hasPartialWord (ctx : FrameContext) : Bool :=
  match ctx.decoding with
  | .data _ _ => !ctx.word.isEmpty
  | _ => false

/-- The Match Unit's frame end: the partial last word if there is one, then the ANOMALY slots (R37, R54). -/
def matchFrameEnd (ctx : FrameContext) (s : State) : State :=
  evaluate (anomalyAt ctx) (if ctx.hasPartialWord then evaluate (wordAt ctx ctx.dataWord) s else s)

/-- A frame ends: the context is settled, the Match Unit evaluates and hands over the hit set, the Capture
Controller acts, the Activity Tally counts, and the tap returns to IDLE (R12, R37, R54). -/
def endFrame (ctx : FrameContext) (s : State) : State :=
  let c := ctx.closed s.tb.timeReset
  let m := matchFrameEnd c s
  let e := captureFrameEnd c m.mu.hitSet { m with mu := { m.mu with eval := none } }
  { e with tally := e.tally.takeFrame c, tap := { e.tap with boundary := .idle } }

/-- A frame abandoned by LINK CONTROL: its context is discarded, its evaluation with it, and the current frame
made absent (R7, R55, R88). -/
def abandonFrame (s : State) : State :=
  match s.tap.boundary with
  | .inFrame _ =>
    { s with mu := { s.mu with eval := none }, cc := { s.cc with current := none } }
  | _ => s

end Sys2Proof.Machine
end

