-- ==== Sys2Proof/Machine/Link.lean ====
section
/-! DEFINITION. The monitored link: SELECT_ASSERTED, SELECT_NEGATED, SAMPLING_EDGE and the pulses named by what
they bring about (R3, R8 to R12, R22 to R37). -/

namespace Sys2Proof.Machine
open Sys2Proof

/-- The line of one select, as a bit of the H_SEL pins. -/
def selectBit (n : Fin 4) : BitVec 4 := BitVec.ofNat 4 (2 ^ n.val)

/-- A select is asserted while others are (R11). -/
def setCollision (ctx : FrameContext) : FrameContext := { ctx with collision := true }

/-- SELECT ASSERTED: in IDLE a frame begins; IN FRAME, with another select asserted, COLLISION is set (R3, R10,
R11). A line already asserted makes no assertion (log 4). -/
def execSelectAsserted (n : Fin 4) (s : State) : Host.Outcome State Fault Refusal :=
  .next
    (if s.hSel.getLsbD n.val then s
    else
      let t := { s with hSel := s.hSel ||| selectBit n }
      match s.tap.boundary with
      | .idle => if s.hSel = 0 then beginFrame n t else t
      | .inFrame ctx => if s.hSel = 0 then t else setContext (setCollision ctx) t
      | _ => t)

/-- SELECT NEGATED: the negation of the last asserted select ends the frame, or the skipping (R3, R12, R13). -/
def execSelectNegated (n : Fin 4) (s : State) : Host.Outcome State Fault Refusal :=
  .next
    (if s.hSel.getLsbD n.val then
      let t := { s with hSel := s.hSel &&& ~~~ selectBit n }
      if t.hSel = 0 then
        match s.tap.boundary with
        | .inFrame ctx => happening (endFrame ctx) t
        | .skipping => { t with tap := { t.tap with boundary := .idle } }
        | _ => t
      else t
    else s)

/-- SAMPLING EDGE: H_CLK goes to a level. IN FRAME a transition away from the copied idle level is a pulse,
whatever that pulse brings about; a transition back to it, and any transition in the other states, has no effect
on the tap (R3, R8, log 15). The link's pins take their levels in every case (R1). -/
def execSamplingEdge (link : LinkLevels) (s : State) : Host.Outcome State Fault Refusal :=
  .next
    (match s.tap.boundary with
    | .inFrame ctx =>
      if ctx.isSamplingEdge s.hClk link.clock then happening (takePulse link.lanes ctx) (drivePins link s)
      else drivePins link s
    | _ => drivePins link s)

/-- OPCODE COMPLETE: the last opcode pulse (R22, R23, R24). -/
def execOpcodeComplete (lanes : LinkLanes) (s : State) : Host.Outcome State Fault Refusal :=
  .next (takeNamedPulse .opcodeDone lanes s)

/-- ADDRESS COMPLETE: the last address pulse (R25). -/
def execAddressComplete (lanes : LinkLanes) (s : State) : Host.Outcome State Fault Refusal :=
  .next (takeNamedPulse .addressDone lanes s)

/-- WAIT DONE: the last wait pulse (R26). -/
def execWaitDone (lanes : LinkLanes) (s : State) : Host.Outcome State Fault Refusal :=
  .next (takeNamedPulse .waitOver lanes s)

/-- DATA BYTE COMPLETE: the last pulse of a data byte (R27, R28, R29). -/
def execDataByteComplete (lanes : LinkLanes) (s : State) : Host.Outcome State Fault Refusal :=
  .next (takeNamedPulse .byteDone lanes s)

/-- TRAIL PULSE: a pulse in TRAIL (R30). -/
def execTrailPulse (lanes : LinkLanes) (s : State) : Host.Outcome State Fault Refusal :=
  .next (takeNamedPulse .trail lanes s)

/-- OPAQUE PULSE: a pulse in OPAQUE (R31). -/
def execOpaquePulse (lanes : LinkLanes) (s : State) : Host.Outcome State Fault Refusal :=
  .next (takeNamedPulse .unlisted lanes s)

end Sys2Proof.Machine
end

