-- ==== Sys2Proof/Machine/Port.lean ====
section
/-! DEFINITION. The service frame: S_SEL_ASSERTED, S_SEL_NEGATED, ARGUMENT_BYTE, UNKNOWN_COMMAND, REPLY_READY,
REPLY_COMPLETE (R156 to R163), and the taking that every service command shares. -/

namespace Sys2Proof.Machine
open Sys2Proof

/-! ### Bits and bytes on S_DI and S_DO (R156) -/

/-- The bits of a byte in the order they are sent, most significant first (R156). -/
def byteBits (b : Byte) : List Bool :=
  [b.getLsbD 7, b.getLsbD 6, b.getLsbD 5, b.getLsbD 4, b.getLsbD 3, b.getLsbD 2, b.getLsbD 1, b.getLsbD 0]

/-- The byte that eight bits make, the first the most significant (R156). -/
def bitsByte (bits : List Bool) : Byte :=
  bits.foldl (fun acc d => (acc <<< 1) ||| if d then 1 else 0) 0

/-- The last byte of a command, the one it is taken at (R158); a service command has at least its code. -/
def lastByteOf (i : Instr) : Byte := (i.serviceBytes.getD []).getLastD 0

/-- The bytes of the reply in the buffer, marker first (R161). -/
def ServicePort.replyBytes (sp : ServicePort) : List Byte :=
  match sp.reply with
  | some r => r.bytes
  | none => []

/-- The byte the phase of the frame calls for on S_DO: in the reply phase a pending byte until the marker has begun,
and then the byte of the reply in progress; 0xFF in the others that drive the line (R158, R161, R163, R177). -/
def ServicePort.outByte (sp : ServicePort) : Byte :=
  match sp.frame with
  | .reply =>
    match sp.byteAt with
    | some k => sp.replyBytes.getD k 0
    | none => 0
  | _ => 0xFF

/-- The port after a falling edge of S_CLK: S_DO goes to the next bit of the byte in progress (R156). With S_SEL
negated and in RESET an edge has no effect (R156, R176). -/
def ServicePort.falling (sp : ServicePort) : ServicePort :=
  match sp.frame with
  | .reset | .noFrame => sp
  | _ => { sp with out := sp.outByte.getLsbD (7 - sp.bits.length) }

/-- The pin S_DO: released while S_SEL is negated and in RESET, else at the level driven (R156, R176). -/
def State.sDoPin (s : State) : Option Bool :=
  match s.sp.frame with
  | .reset | .noFrame => none
  | _ => some s.sp.out

/-- The bytes collected after one more that does not complete a command: the code of a command with arguments,
or an argument before the last (R157, R158). `none` where the byte is another row's. -/
def collectByte (bytes : List Byte) (b : Byte) : Option (List Byte) :=
  match bytes with
  | [] =>
    match commandArgs b with
    | some n => if 1 ≤ n then some [b] else none
    | none => none
  | code :: args =>
    match commandArgs code with
    | some n => if args.length + 1 < n then some (code :: args ++ [b]) else none
    | none => none

/-- The place in the reply once the byte in progress has begun: the first byte to begin with the reply ready is the
marker (R161). -/
def ServicePort.byteBegun (sp : ServicePort) : Option Nat :=
  if sp.bits = [] ∧ sp.byteAt = none ∧ sp.ready = true then some 0 else sp.byteAt

/-- The port once a pending byte has been clocked out: counted, and with the last that a reply can take the reply is
ready, so that the byte after it is the marker (R161, R193, log 22). -/
def ServicePort.pendingByteSent (sp : ServicePort) : ServicePort :=
  { sp with
    bits := [], pendingSent := sp.pendingSent + 1
    ready := sp.ready || decide (Config.maxPendingBytes ≤ sp.pendingSent + 1) }

/-- The port after a rising edge of S_CLK that samples `d`: the bit joins the byte in progress, and the eighth
completes the byte, which COMMAND collects and REPLY has sent (R156, R158, R161). TRAILER and IGNORING ignore S_DI
and drive 0xFF at every bit; with S_SEL negated and in RESET an edge has no effect. `none` where the edge takes a
command or completes the reply: it is then that row's own (R157, R162, log 29). -/
def ServicePort.rising (d : Bool) (sp : ServicePort) : Option ServicePort :=
  match sp.frame with
  | .command bytes =>
    if sp.bits.length < 7 then some { sp with bits := sp.bits ++ [d] }
    else
      match collectByte bytes (bitsByte (sp.bits ++ [d])) with
      | some more => some { sp with frame := .command more, bits := [] }
      | none => none
  | .reply =>
    if sp.bits.length < 7 then some { sp with bits := sp.bits ++ [d], byteAt := sp.byteBegun }
    else
      match sp.byteBegun with
      | none => some sp.pendingByteSent
      | some k => if k + 1 < sp.replyBytes.length then some { sp with bits := [], byteAt := some (k + 1) } else none
  | _ => some sp

/-- A transition of S_CLK or S_DI (R156): a rising edge of S_CLK takes a bit, after a falling edge S_DO changes, and
a change of S_DI alone is nothing but its level. -/
def takeServiceEdge (k : ServiceLine) (s : State) : State :=
  if s.sLine.clock = false ∧ k.clock = true then
    match s.sp.rising k.data with
    | some sp => { s with sLine := k, sp := sp }
    | none => s
  else if s.sLine.clock = true ∧ k.clock = false then { s with sLine := k, sp := s.sp.falling }
  else { s with sLine := k }

/-! ### The taking of a command -/

/-- A reply with an empty payload. -/
def reply (status : Status) (payload : List Byte := []) : Reply := { status := status, payload := payload }

/-- The service lines at the rising edge that samples the last bit of a byte (R156). -/
def lineAfter (b : Byte) : ServiceLine := { clock := true, data := b.getLsbD 0 }

/-- The reply placed in the buffer at the edge that completes the byte `last`, the frame in REPLY, the reply not
ready yet and none of its bytes begun (R156, R159, R161). -/
def setReply (r : Reply) (last : Byte) (s : State) : State :=
  { s with
    sLine := lineAfter last
    sp := { s.sp with
      frame := .reply, reply := some r, ready := false, bits := [], byteAt := none, pendingSent := 0 } }

/-- Whether the port is in COMMAND with every byte of a command received but its last (R158), and with the bits of
that byte clocked so far its own (R156): the row stands for the rest of the byte (log 29). -/
def awaits (i : Instr) (s : State) : Bool :=
  match i.serviceBytes with
  | some bytes => decide (s.sp.frame = .command bytes.dropLast ∧ s.sp.bits <+: byteBits (lastByteOf i))
  | none => false

/-- The taking of a service command, at its last byte: the owning block judges it, acts, and hands over the
reply (R158, R159). Where the port does not await that byte, the command is not taken (log 6). -/
def takeCommand (i : Instr) (judge : State → Reply × State) (s : State) : State :=
  if awaits i s then setReply (judge s).1 (lastByteOf i) (judge s).2 else s

/-- S_SEL ASSERTED: begins a frame in COMMAND from NO FRAME, at its first bit and with S_DO at that of 0xFF (R156,
R157). With S_CLK high the first rising edge comes after its return, as every rising edge does. -/
def execSSelAsserted (s : State) : Host.Outcome State Fault Refusal :=
  .next
    (if s.sSel then s
    else
      let t := { s with sSel := true }
      if s.sp.frame = .noFrame then
        { t with sp := { t.sp with frame := .command [], bits := [], byteAt := none, out := true } }
      else t)

/-- A reply in progress ends unsent: the buffer is emptied and nothing that waits on completion happens
(R129, R162, R163, R172). -/
def abandonReply (s : State) : State :=
  { s with
    sp := { s.sp with reply := none, ready := false, inFlight := none }
    ru := { s.ru with inFlight := none } }

/-- The frame ended: the bits of a byte clocked in part are dropped in both directions (R156, R157). -/
def ServicePort.closed (sp : ServicePort) : ServicePort :=
  { sp with frame := .noFrame, bits := [], byteAt := none, pendingSent := 0 }

/-- S_SEL NEGATED: an untaken command is dropped, an incomplete reply abandoned, and the frame ends (R157,
R158, R162). -/
def execSSelNegated (s : State) : Host.Outcome State Fault Refusal :=
  .next
    (if s.sSel then
      let t := { s with sSel := false }
      match s.sp.frame with
      | .reset => t
      | .reply =>
        let u := abandonReply t
        { u with sp := u.sp.closed }
      | _ => { t with sp := t.sp.closed }
    else s)

/-- ARGUMENT BYTE: the rest of a byte that completes in COMMAND without the command being taken, its bits clocked so
far being its own (R156, R157, R158, log 29), or one transition of the service lines (R156). -/
def execArgumentByte (input : ServiceInput) (s : State) : Host.Outcome State Fault Refusal :=
  .next
    (match input with
    | .edge k => takeServiceEdge k s
    | .byte b =>
      match s.sp.frame with
      | .command bytes =>
        match collectByte bytes b with
        | some more =>
          if s.sp.bits <+: byteBits b then
            { s with sLine := lineAfter b, sp := { s.sp with frame := .command more, bits := [] } }
          else s
        | none => s
      | _ => s)

/-- UNKNOWN COMMAND: a code that names no command is taken at its code byte, the row standing for the rest of it, and
answered BAD_COMMAND (R160, log 29). -/
def execUnknownCommand (code : Byte) (s : State) : Host.Outcome State Fault Refusal :=
  .next
    (if s.sp.frame = .command [] ∧ commandArgs code = none ∧ s.sp.bits <+: byteBits code then
      setReply (reply .badCommand) code s
    else s)

/-- REPLY READY: the reply buffer has been filled, and the marker follows the pending bytes (R161). Without it the reply
is ready with the last pending byte it can take (`ServicePort.pendingByteSent`, R193, log 22). -/
def execReplyReady (s : State) : Host.Outcome State Fault Refusal :=
  .next (if s.sp.frame = .reply then { s with sp := { s.sp with ready := true } } else s)

/-- The completion of a READ RECORD reply: the record is consumed if the cursor still designates it (R112,
R128). -/
def consumeRecord (s : State) : State :=
  match s.ru.inFlight with
  | none => s
  | some id =>
    let t :=
      if s.atCursor.map Held.id = some id then freeRead { s with ru := { s.ru with cursor := s.ru.cursor + 1 } }
      else s
    { t with ru := { t.ru with inFlight := none } }

/-- The completion of a NEXT EVENT reply: the entry is removed, or keeps the remainder of its detail at the
head of the queue (R172). -/
def removeEvent (sp : ServicePort) : ServicePort :=
  match sp.inFlight with
  | none => sp
  | some f =>
    match sp.queue with
    | [] => { sp with inFlight := none }
    | e :: rest =>
      if e.event = f.copied then { sp with queue := rest, inFlight := none }
      else
        { sp with
          queue := { event := e.event.minus f.copied, time := f.addedAt.getD e.time } :: rest
          inFlight := none }

/-- The last bit of a reply, which stands on S_DO at the edge that completes it (R156, R162). -/
def ServicePort.lastBit (sp : ServicePort) : Bool := (sp.replyBytes.getLastD 0).getLsbD 0

/-- The completion of a reply, at the rising edge that samples its last bit: what waits on it takes place, the buffer
is emptied, the frame enters TRAILER (R156, R162, R163). -/
def completeReply (s : State) : State :=
  let t := consumeRecord s
  { t with
    sLine := { t.sLine with clock := true }
    sp := { removeEvent t.sp with
      frame := .trailer, reply := none, ready := false, bits := [], byteAt := none, pendingSent := 0
      out := t.sp.lastBit } }

/-- REPLY COMPLETE: the last reply bit is clocked out, of a reply that is ready; the row stands for the rest of the
reply (R161, R162, log 29). -/
def execReplyComplete (s : State) : Host.Outcome State Fault Refusal :=
  .next (if s.sp.frame = .reply ∧ s.sp.ready = true then happening completeReply s else s)

end Sys2Proof.Machine
end

