-- ==== Sys2Proof/Machine/PortCommands.lean ====
section
/-! DEFINITION. STATUS, NEXT_EVENT, SET_EVENT_MASK, SOFT_RESET (R165, R171, R173, R174). -/

namespace Sys2Proof.Machine
open Sys2Proof

/-- STATUS (R165). -/
def judgeStatus (s : State) : Reply × State := (reply .ok (statusPayload s), s)

def execStatus (s : State) : Host.Outcome State Fault Refusal := .next (takeCommand .status judgeStatus s)

/-- NEXT EVENT at its taking: the oldest entry is copied and noted as the event in flight (R171). -/
def judgeNextEvent (s : State) : Reply × State :=
  match s.sp.queue with
  | [] => (reply .empty, s)
  | e :: _ =>
    (reply .ok e.bytes, { s with sp := { s.sp with inFlight := some { copied := e.event, addedAt := none } } })

def execNextEvent (s : State) : Host.Outcome State Fault Refusal :=
  .next (takeCommand .nextEvent judgeNextEvent s)

/-- RESTARTED and EVENTS_LOST, the kinds always enabled: bits 0 and 12 (R173, R192). -/
def alwaysEnabled : BitVec 13 := 0b1000000000001

/-- SET EVENT MASK (R173). -/
def judgeSetEventMask (kinds : BitVec 16) (s : State) : Reply × State :=
  match set? 13 kinds with
  | none => (reply .badArg (beBytes 2 s.sp.mask.toNat), s)
  | some m =>
    (reply .ok (beBytes 2 (m ||| alwaysEnabled).toNat), { s with sp := { s.sp with mask := m ||| alwaysEnabled } })

def execSetEventMask (kinds : BitVec 16) (s : State) : Host.Outcome State Fault Refusal :=
  .next (takeCommand (.setEventMask kinds) (judgeSetEventMask kinds) s)

/-- SOFT RESET: the working state of every block, then the queue with RESTARTED(SOFT) as its one entry; the
configuration, the frame in progress on the link, the timestamp, the pulses and the tally are kept (R174). -/
def softReset (s : State) : State :=
  { s with
    seq := { s.seq.toIdle with trigCount := 0 }
    cc := Capture.fresh s.cc.setup
    tm := { TraceMemory.reset with nextId := s.tm.nextId }
    ru := { Readout.reset with watermark := s.ru.watermark }
    tb := { s.tb with timeReset := false }
    sp := { s.sp with queue := [{ event := .restarted .soft, time := s.tb.time }], inFlight := none } }

def judgeSoftReset (s : State) : Reply × State := (reply .ok, softReset s)

def execSoftReset (s : State) : Host.Outcome State Fault Refusal :=
  .next (takeCommand .softReset judgeSoftReset s)

end Sys2Proof.Machine
end

