-- ==== Sys2Proof/Machine/ReadoutCommands.lean ====
section
/-! DEFINITION. READ_RECORD, PEEK_RECORD, SKIP_RECORDS, MARK, REWIND, RELEASE, SET_WATERMARK (R127 to R135). -/

namespace Sys2Proof.Machine
open Sys2Proof

/-- READ RECORD at its taking: the record at the cursor is copied and noted as the read in flight (R127). -/
def judgeReadRecord (s : State) : Reply × State :=
  match s.atCursor with
  | none => (reply .empty, s)
  | some h => (reply .ok h.record.bytes, { s with ru := { s.ru with inFlight := some h.id } })

def execReadRecord (s : State) : Host.Outcome State Fault Refusal :=
  .next (takeCommand .readRecord judgeReadRecord s)

/-- PEEK RECORD (R130). -/
def judgePeekRecord (s : State) : Reply × State :=
  match s.atCursor with
  | none => (reply .empty, s)
  | some h => (reply .ok h.record.bytes, s)

def execPeekRecord (s : State) : Host.Outcome State Fault Refusal :=
  .next (takeCommand .peekRecord judgePeekRecord s)

/-- The cursor advances over `k` records; an advance of 1 or more is told to the Trace Memory, which frees
(R112, R131). -/
def skipRecords (k : Nat) (s : State) : State :=
  if k = 0 then s else freeRead { s with ru := { s.ru with cursor := s.ru.cursor + k } }

/-- SKIP RECORDS (R131). -/
def judgeSkipRecords (n : BitVec 16) (s : State) : Reply × State :=
  if n = 0 then (reply .badArg, s)
  else
    let k := min n.toNat s.unread
    (reply .ok (beBytes 2 k), happening (skipRecords k) s)

def execSkipRecords (n : BitVec 16) (s : State) : Host.Outcome State Fault Refusal :=
  .next (takeCommand (.skipRecords n) (judgeSkipRecords n) s)

/-- MARK (R132). -/
def judgeMark (s : State) : Reply × State :=
  if s.ru.mark.isSome then (reply .markHeld, s)
  else if s.unread = 0 then (reply .empty, s)
  else (reply .ok, { s with ru := { s.ru with mark := some s.ru.cursor } })

def execMark (s : State) : Host.Outcome State Fault Refusal := .next (takeCommand .mark judgeMark s)

/-- The cursor returns to the mark, which is dropped (R133). -/
def rewindTo (m : Nat) (s : State) : State := { s with ru := { s.ru with cursor := m, mark := none } }

/-- REWIND (R133). -/
def judgeRewind (s : State) : Reply × State :=
  match s.ru.mark with
  | none => (reply .noMark, s)
  | some m => (reply .ok (beBytes 2 (s.ru.cursor - m)), happening (rewindTo m) s)

def execRewind (s : State) : Host.Outcome State Fault Refusal := .next (takeCommand .rewind judgeRewind s)

/-- The mark is dropped and every record before the cursor freed (R112, R134). -/
def releaseMark (s : State) : State := freeRead { s with ru := { s.ru with mark := none } }

/-- RELEASE (R134). -/
def judgeRelease (s : State) : Reply × State :=
  match s.ru.mark with
  | none => (reply .noMark, s)
  | some m => (reply .ok (beBytes 2 (s.ru.cursor - m)), happening releaseMark s)

def execRelease (s : State) : Host.Outcome State Fault Refusal := .next (takeCommand .release judgeRelease s)

/-- SET WATERMARK (R135). -/
def judgeSetWatermark (w : BitVec 16) (s : State) : Reply × State :=
  if 4096 < w.toNat then (reply .badArg (beBytes 2 s.ru.watermark), s)
  else
    (reply .ok (beBytes 2 w.toNat),
     { s with ru := { s.ru with
              watermark := w.toNat, reached := decide (w.toNat ≠ 0) && decide (w.toNat ≤ s.unread) } })

def execSetWatermark (w : BitVec 16) (s : State) : Host.Outcome State Fault Refusal :=
  .next (takeCommand (.setWatermark w) (judgeSetWatermark w) s)

end Sys2Proof.Machine
end

