-- ==== Sys2Proof/Machine/Resets.lean ====
section
/-! DEFINITION. Supply and resets: POWER_ON, POWER_ON_RESET_END, RESET_N_ASSERTED, RESET_N_RELEASED,
POWER_LOSS (R3, R14, R121, R155, R176, R177). -/

namespace Sys2Proof.Machine
open Sys2Proof

/-- Every block at its values after power-on and pin reset, the tap and the port in RESET, no event held
(R4, R14, R18, R38, R57, R61, R78, R81, R121, R123, R140, R155, R166, R176, R179). The pins, which the outside
drives, and the waiting commands are as they were. -/
def resetBlocks (s : State) : State :=
  { s with
    tap := LinkTap.reset, opTable := OpcodeTable.reset, mu := MatchUnit.reset, seq := Sequencer.reset,
    cc := Capture.reset, tm := TraceMemory.reset, ru := Readout.reset, tb := Timebase.reset,
    sp := ServicePort.reset, tally := Tally.reset }

/-- The part leaves reset: the tap to SKIPPING or IDLE by the selects (R3, R13), the division restarts (R141),
the port to IGNORING or NO FRAME by S_SEL, and RESTARTED is queued in the queue the reset has emptied (R166,
R177). -/
def leaveReset (cause : ResetCause) (s : State) : State :=
  { s with
    tap := { s.tap with boundary := if s.hSel = 0 then .idle else .skipping }
    tb := { s.tb with divider := 0 }
    sp := { s.sp with
            frame := if s.sSel then .ignoring else .noFrame
            queue := [{ event := .restarted cause, time := s.tb.time }] } }

/-- POWER ON: supply is applied and power-on reset begins (R3, R14, R176). -/
def execPowerOn (s : State) : Host.Outcome State Fault Refusal :=
  .next { resetBlocks s with powered := true, porActive := true }

/-- POWER ON RESET END: the part leaves reset with RESTARTED(POWER), unless RESET_N still holds it (R177,
log 11). -/
def execPowerOnResetEnd (s : State) : Host.Outcome State Fault Refusal :=
  .next
    (if s.powered && s.porActive then
      let t := { s with porActive := false }
      if s.resetLow then t else leaveReset .power t
    else s)

/-- RESET_N ASSERTED: any frame is cut and every block reset as at power-on (R14, R55, R77, R101, R121, R155,
R176). Without supply only the pin changes. -/
def execResetNAsserted (s : State) : Host.Outcome State Fault Refusal :=
  .next
    (if s.resetLow then s
    else
      let t := { s with resetLow := true }
      if s.powered then resetBlocks t else t)

/-- RESET_N RELEASED: the part leaves reset with RESTARTED(PIN), unless power-on reset still runs (R177,
log 11). -/
def execResetNReleased (s : State) : Host.Outcome State Fault Refusal :=
  .next
    (if s.resetLow then
      let t := { s with resetLow := false }
      if s.powered && !s.porActive then leaveReset .pin t else t
    else s)

/-- POWER LOSS: the repeaters stop carrying the link and everything held is lost until power-on (1.1 Caution,
R121); the blocks stand at their reset values in the meantime (log 10). -/
def execPowerLoss (s : State) : Host.Outcome State Fault Refusal :=
  .next { resetBlocks s with powered := false, porActive := false }

end Sys2Proof.Machine
end

