-- ==== Sys2Proof/Machine/ConfigCommands.lean ====
section
/-! DEFINITION. The configuration commands: LINK_CONTROL, PUT/GET/DROP_OPCODE_ENTRY, PUT/GET_SLOT,
PUT/GET_STAGE, PUT_SEQUENCE, PUT/GET_CAPTURE_SETUP (R5, R7, R19 to R21, R43, R44, R58 to R60, R79, R80). -/

namespace Sys2Proof.Machine
open Sys2Proof

/-- Whether a session is active, for the LOCKED and ACTIVE checks (R82). -/
def State.sessionActive (s : State) : Bool := s.cc.state.isActive

/-! ### LINK CONTROL -/

/-- The Link Tap acts on a change of decode enable (R7). -/
def setDecodeEnable (on : Bool) (s : State) : State :=
  if on = s.tap.decodeEnable then s
  else if on then
    { s with tap := { s.tap with
              decodeEnable := true, boundary := if s.hSel = 0 then .idle else .skipping } }
  else
    let t := abandonFrame s
    { t with tap := { t.tap with decodeEnable := false, boundary := .off } }

/-- The accepted settings become those of the tap; KEEP leaves a setting as it is (R5). -/
def applyLinkControl (decode idle : Option Bool) (lanes : Option OpcodeLanes) (s : State) : State :=
  let t := setDecodeEnable (decode.getD s.tap.decodeEnable) s
  { t with tap := { t.tap with
            idleLevel := idle.getD s.tap.idleLevel, opcodeLanes := lanes.getD s.tap.opcodeLanes } }

/-- LINK CONTROL (R5); the payload reports the settings whatever the status. -/
def judgeLinkControl (decode idle lanes : Byte) (s : State) : Reply × State :=
  if s.sessionActive then (reply .locked (linkPayload s.tap), s)
  else
    match keepOr onOff? decode, keepOr idleLevel? idle, keepOr opcodeLanes? lanes with
    | some d, some i, some l =>
      let t := applyLinkControl d i l s
      (reply .ok (linkPayload t.tap), t)
    | _, _, _ => (reply .badArg (linkPayload s.tap), s)

def execLinkControl (decode idle lanes : Byte) (s : State) : Host.Outcome State Fault Refusal :=
  .next (takeCommand (.linkControl decode idle lanes) (judgeLinkControl decode idle lanes) s)

/-! ### The Opcode Table -/

/-- PUT OPCODE ENTRY (R19). -/
def judgePutOpcodeEntry (a : OpcodeEntryArgs) (s : State) : Reply × State :=
  if s.sessionActive then (reply .locked, s)
  else
    match entry? a with
    | none => (reply .badArg, s)
    | some e =>
      match s.opTable.position e.opcode with
      | some i => (reply .ok [byte i.val, 1], { s with opTable := s.opTable.set i (some e) })
      | none =>
        match s.opTable.freePosition with
        | some i => (reply .ok [byte i.val, 0], { s with opTable := s.opTable.set i (some e) })
        | none => (reply .tableFull, s)

def execPutOpcodeEntry (a : OpcodeEntryArgs) (s : State) : Host.Outcome State Fault Refusal :=
  .next (takeCommand (.putOpcodeEntry a) (judgePutOpcodeEntry a) s)

/-- GET OPCODE ENTRY's reply: BY OPCODE 0, BY POSITION 1 (R20). -/
def opcodeEntryReply (form value : Byte) (t : OpcodeTable) : Reply :=
  match form.toNat with
  | 0 =>
    match t.position value with
    | some i =>
      match t.get i with
      | some e => reply .ok (entryPayload i.val e)
      | none => reply .notFound
    | none => reply .notFound
  | 1 =>
    match index? 32 value with
    | none => reply .badArg
    | some i =>
      match t.get i with
      | some e => reply .ok (entryPayload i.val e)
      | none => reply .empty
  | _ => reply .badArg

def execGetOpcodeEntry (form value : Byte) (s : State) : Host.Outcome State Fault Refusal :=
  .next (takeCommand (.getOpcodeEntry form value) (fun t => (opcodeEntryReply form value t.opTable, t)) s)

/-- DROP OPCODE ENTRY (R21). -/
def judgeDropOpcodeEntry (opcode : Byte) (s : State) : Reply × State :=
  if s.sessionActive then (reply .locked, s)
  else
    match s.opTable.position opcode with
    | none => (reply .notFound, s)
    | some i => (reply .ok, { s with opTable := s.opTable.set i none })

def execDropOpcodeEntry (opcode : Byte) (s : State) : Host.Outcome State Fault Refusal :=
  .next (takeCommand (.dropOpcodeEntry opcode) (judgeDropOpcodeEntry opcode) s)

/-! ### Match slots -/

/-- PUT SLOT (R43): the slot number, then the fields, each check answering BAD_ARG. -/
def judgePutSlot (a : SlotArgs) (s : State) : Reply × State :=
  if s.sessionActive then (reply .locked, s)
  else
    match index? 8 a.slot, slot? a with
    | some n, some f => (reply .ok, { s with mu := { s.mu with slots := s.mu.slots.set n f } })
    | _, _ => (reply .badArg, s)

def execPutSlot (a : SlotArgs) (s : State) : Host.Outcome State Fault Refusal :=
  .next (takeCommand (.putSlot a) (judgePutSlot a) s)

/-- GET SLOT's reply (R44). -/
def slotReply (n : Byte) (slots : Vector Slot 8) : Reply :=
  match index? 8 n with
  | some i => reply .ok (slotPayload i.val (slots.get i))
  | none => reply .badArg

def execGetSlot (n : Byte) (s : State) : Host.Outcome State Fault Refusal :=
  .next (takeCommand (.getSlot n) (fun t => (slotReply n t.mu.slots, t)) s)

/-! ### The Trigger Sequencer's configuration -/

/-- PUT STAGE (R58). -/
def judgePutStage (a : StageArgs) (s : State) : Reply × State :=
  if s.sessionActive then (reply .locked, s)
  else
    match index? 4 a.stage, stage? a with
    | some n, some g => (reply .ok, { s with seq := { s.seq with stages := s.seq.stages.set n g } })
    | _, _ => (reply .badArg, s)

def execPutStage (a : StageArgs) (s : State) : Host.Outcome State Fault Refusal :=
  .next (takeCommand (.putStage a) (judgePutStage a) s)

/-- GET STAGE's reply (R59). -/
def stageReply (n : Byte) (q : Sequencer) : Reply :=
  match index? 4 n with
  | some i => reply .ok (stagePayload i.val (q.stages.get i) q.count)
  | none => reply .badArg

def execGetStage (n : Byte) (s : State) : Host.Outcome State Fault Refusal :=
  .next (takeCommand (.getStage n) (fun t => (stageReply n t.seq, t)) s)

/-- PUT SEQUENCE (R60); the payload carries N whatever the status. -/
def judgePutSequence (count : Byte) (s : State) : Reply × State :=
  if s.sessionActive then (reply .locked [byte s.seq.count], s)
  else if 1 ≤ count.toNat ∧ count.toNat ≤ 4 then
    (reply .ok [count], { s with seq := { s.seq with count := count.toNat } })
  else (reply .badArg [byte s.seq.count], s)

def execPutSequence (count : Byte) (s : State) : Host.Outcome State Fault Refusal :=
  .next (takeCommand (.putSequence count) (judgePutSequence count) s)

/-! ### The capture setup -/

/-- PUT CAPTURE SETUP (R79). -/
def judgePutCaptureSetup (a : SetupArgs) (s : State) : Reply × State :=
  if s.sessionActive then (reply .locked, s)
  else
    match setup? a with
    | some c => (reply .ok, { s with cc := { s.cc with setup := c } })
    | none => (reply .badArg, s)

def execPutCaptureSetup (a : SetupArgs) (s : State) : Host.Outcome State Fault Refusal :=
  .next (takeCommand (.putCaptureSetup a) (judgePutCaptureSetup a) s)

/-- GET CAPTURE SETUP (R80). -/
def execGetCaptureSetup (s : State) : Host.Outcome State Fault Refusal :=
  .next (takeCommand .getCaptureSetup (fun t => (reply .ok (setupPayload t.cc.setup), t)) s)

end Sys2Proof.Machine
end

