-- ==== Sys2Proof/Machine/SessionCommands.lean ====
section
/-! DEFINITION. FORCE_TRIGGER, ARM, STOP, CLEAR_TRACE (R73, R83 to R87). -/

namespace Sys2Proof.Machine
open Sys2Proof

/-- FORCE TRIGGER (R73); the payload carries the trigger count after the command, whatever the status. -/
def judgeForceTrigger (s : State) : Reply × State :=
  if s.seq.state = .watching then
    let t := happening (declareTrigger .forced) s
    (reply .ok (beBytes 2 t.seq.trigCount), t)
  else (reply .notActive (beBytes 2 s.seq.trigCount), s)

def execForceTrigger (s : State) : Host.Outcome State Fault Refusal :=
  .next (takeCommand .forceTrigger judgeForceTrigger s)

/-- What an ARM taken OK clears before the session starts (R84 steps 1 to 4, R62, R150): with DISCARD the
trace, then the Capture Controller's counts, the trigger count, hold-spent and time-reset pending. -/
def prepareSession (keep : Bool) (s : State) : State :=
  let t := if keep then s else emptyTrace s
  { t with
    cc := { t.cc.leaveFrame with
            seen := 0, qualified := 0, appended := 0, lost := 0, nextFrame := 0, preCount := 0,
            postCount := 0, loss := none }
    seq := { t.seq with trigCount := 0 }
    tm := { t.tm with holdSpent := false }
    tb := { t.tb with timeReset := false } }

/-- The start option: WAITSYNC, or the session starts at once, with a LEADER's emission if sync-at-arm is on
(R84 step 5, R85, R146). -/
def beginSession (onSync : Bool) (s : State) : State :=
  if onSync then { s with cc := { s.cc with state := .waitSync } }
  else
    let t := startSession s
    if t.tb.role = .leader ∧ t.tb.syncAtArm then emitSync t else t

/-- The status of an ARM, by the first condition that holds (R83). -/
def armStatus (keep onSync : Option Bool) (s : State) : Status :=
  if s.sessionActive then .active
  else
    match keep, onSync with
    | some k, some o =>
      if o ∧ s.tb.role ≠ .follower then .badArg
      else if k ∧ s.ru.mark.isSome then .markHeld
      else if k ∧ s.tm.trace ≠ [] then .unread
      else .ok
    | _, _ => .badArg

/-- ARM (R83, R84); the payload carries the capture state after the command, whatever the status. -/
def judgeArm (traceOption startOption : Byte) (s : State) : Reply × State :=
  let status := armStatus (traceKeep? traceOption) (onSync? startOption) s
  let t :=
    if status = .ok then
      happening
        (fun u => beginSession ((onSync? startOption).getD false)
          (prepareSession ((traceKeep? traceOption).getD false) u)) s
    else s
  (reply status [byte t.cc.state.code], t)

def execArm (traceOption startOption : Byte) (s : State) : Host.Outcome State Fault Refusal :=
  .next (takeCommand (.arm traceOption startOption) (judgeArm traceOption startOption) s)

/-- STOP (R86); the payload carries the capture state after the command, whatever the status. -/
def judgeStop (s : State) : Reply × State :=
  if s.sessionActive then
    let t := happening (completeSession .stopped) s
    (reply .ok [byte t.cc.state.code], t)
  else (reply .notActive [byte s.cc.state.code], s)

def execStop (s : State) : Host.Outcome State Fault Refusal := .next (takeCommand .stop judgeStop s)

/-- CLEAR TRACE (R87, R122, R138). -/
def judgeClearTrace (s : State) : Reply × State :=
  if s.sessionActive then (reply .active, s) else (reply .ok, happening emptyTrace s)

def execClearTrace (s : State) : Host.Outcome State Fault Refusal :=
  .next (takeCommand .clearTrace judgeClearTrace s)

end Sys2Proof.Machine
end

