-- ==== Sys2Proof/Machine/TallyCommands.lean ====
section
/-! DEFINITION. TALLY_CONTROL, TALLY_SNAPSHOT, READ_TALLY (R184, R185, R187). -/

namespace Sys2Proof.Machine
open Sys2Proof

/-- TALLY CONTROL (R184); the payload carries the enable after the command, whatever the status. -/
def judgeTallyControl (choice : Byte) (s : State) : Reply × State :=
  match keepOr onOff? choice with
  | none => (reply .badArg [onOffByte s.tally.enable], s)
  | some c =>
    let on := c.getD s.tally.enable
    (reply .ok [onOffByte on], { s with tally := { s.tally with enable := on } })

def execTallyControl (choice : Byte) (s : State) : Host.Outcome State Fault Refusal :=
  .next (takeCommand (.tallyControl choice) (judgeTallyControl choice) s)

/-- A snapshot: the live table copied, the timestamp recorded, and with CLEAR the live table zeroed (R185). -/
def Tally.snapshot (a : Tally) (clear : Bool) (now : Time) : Tally :=
  { a with snap := a.live, snapTime := now, live := if clear then TallyTable.zero else a.live }

/-- TALLY SNAPSHOT (R185). -/
def judgeTallySnapshot (choice : Byte) (s : State) : Reply × State :=
  match snapshotClear? choice with
  | none => (reply .badArg, s)
  | some clear => (reply .ok (beBytes 5 s.tb.time.toNat), { s with tally := s.tally.snapshot clear s.tb.time })

def execTallySnapshot (choice : Byte) (s : State) : Host.Outcome State Fault Refusal :=
  .next (takeCommand (.tallySnapshot choice) (judgeTallySnapshot choice) s)

/-- READ TALLY's reply, from the snapshot table (R187). -/
def tallyReply (row : Byte) (a : Tally) : Reply :=
  match index? 4 row with
  | some n => reply .ok (tallyRowPayload n.val a.snapTime (a.snap.rows.get n))
  | none => if row = 4 then reply .ok (tallyCollisionPayload a.snapTime a.snap.collisions) else reply .badArg

def execReadTally (row : Byte) (s : State) : Host.Outcome State Fault Refusal :=
  .next (takeCommand (.readTally row) (fun t => (tallyReply row t.tally, t)) s)

end Sys2Proof.Machine
end

