-- ==== Sys2Proof/Machine/Ticks.lean ====
section
/-! DEFINITION. Ticks, what the tick counters bring about, and the chain lines: TIMEBASE_TICK, STAGE_TIMEOUT,
HOLD_EXPIRED, SYNC_PULSE_END, XT_PULSE_END, SYNC_EDGE, XT_EDGE (R15, R70, R71, R115, R117, R141, R142, R146,
R148, R152, R153, R154). -/

namespace Sys2Proof.Machine
open Sys2Proof

/-- A counter that runs to a limit: it counts a tick, and stands at the limit once it has reached it, until
what that brings about is taken (log 7). -/
def countTo (limit n : Nat) : Nat := if n < limit then n + 1 else n

/-- The duration counter of a frame in progress (R15). -/
def LinkTap.tick (t : LinkTap) : LinkTap :=
  match t.boundary with
  | .inFrame ctx => { t with boundary := .inFrame { ctx with duration := satAdd Config.max24 ctx.duration 1 } }
  | _ => t

/-- The stage timer (R70). -/
def Sequencer.tick (q : Sequencer) : Sequencer :=
  { q with timer := q.timer.map (countTo q.current.timeout) }

/-- The hold episode timer (R115), which runs to the hold limit, or to its greatest length without one. -/
def Episode.tick (holdLimit : Nat) (e : Episode) : Episode :=
  { e with ticks := countTo (if holdLimit = 0 then Config.max24 else holdLimit) e.ticks }

/-- The timestamp and the counts of the two pulses (R142, R146, R153). -/
def Timebase.tick (tb : Timebase) : Timebase :=
  { tb with
    time := tb.time + 1
    divider := 0
    syncPulse := tb.syncPulse.map (countTo Config.syncPulseTicks)
    xtPulse := tb.xtPulse.map fun p => { p with ticks := countTo p.length p.ticks } }

/-- TIMEBASE TICK: every block that counts ticks takes it (R141). No tick is given in reset. -/
def execTimebaseTick (s : State) : Host.Outcome State Fault Refusal :=
  .next
    (if s.inReset then s
    else
      { s with
        tap := s.tap.tick
        seq := s.seq.tick
        tm := { s.tm with episode := s.tm.episode.map (Episode.tick s.cc.setup.holdLimit) }
        tb := s.tb.tick })

/-- STAGE TIMEOUT: the expiry of the stage timer, where it has counted the stage's timeout (R71, R72). -/
def execStageTimeout (s : State) : Host.Outcome State Fault Refusal :=
  .next (if s.seq.expired then happening expireStage s else s)

/-- Whether a hold episode has reached the hold limit (R117). -/
def holdExpiring (s : State) : Option Episode :=
  match s.tm.episode with
  | some e => if s.cc.setup.holdLimit ≠ 0 ∧ s.cc.setup.holdLimit ≤ e.ticks then some e else none
  | none => none

/-- HOLD EXPIRED: HOLD_EXPIRED is raised, hold-spent set, and HOLD released with cause LIMIT (R117). -/
def expireHold (e : Episode) (s : State) : State :=
  let t := raiseEvent (.holdExpired s.tm.free) s
  releaseHold .limit e { t with tm := { t.tm with holdSpent := true } }

/-- HOLD EXPIRED, where an episode's timer has reached the hold limit (R117). -/
def execHoldExpired (s : State) : Host.Outcome State Fault Refusal :=
  .next
    (match holdExpiring s with
    | some e => happening (expireHold e) s
    | none => s)

/-- SYNC PULSE END: the SYNC pulse count has reached 8, and SYNC is released (R146). -/
def execSyncPulseEnd (s : State) : Host.Outcome State Fault Refusal :=
  .next
    (match s.tb.syncPulse with
    | some n => if Config.syncPulseTicks ≤ n then { s with tb := { s.tb with syncPulse := none } } else s
    | none => s)

/-- XT PULSE END: the XT pulse count has reached the pulse's length, and XT is released (R153). -/
def execXtPulseEnd (s : State) : Host.Outcome State Fault Refusal :=
  .next
    (match s.tb.xtPulse with
    | some p => if p.length ≤ p.ticks then { s with tb := { s.tb with xtPulse := none } } else s
    | none => s)

/-- What a FOLLOWER does in the taking of a SYNC edge, in order (R148, R149). -/
def takeSyncEdge (s : State) : State :=
  let low : Word32 := s.tb.time.setWidth 32
  let t := raiseEvent (.syncSeen low) (zeroTime s)
  if t.cc.state = .waitSync then startSession t else t

/-- SYNC EDGE: taken by a FOLLOWER alone, whatever its capture state, and not in reset (R145, R148). -/
def execSyncEdge (s : State) : Host.Outcome State Fault Refusal :=
  .next (if !s.inReset && decide (s.tb.role = .follower) then happening takeSyncEdge s else s)

/-- XT EDGE: with XT input enabled and no pulse of its own, the monitor takes the edge as an X hit (R154, R68). -/
def execXtEdge (s : State) : Host.Outcome State Fault Refusal :=
  .next (if !s.inReset && s.tb.xtIn && s.tb.xtPulse.isNone then happening (takeHit 8) s else s)

end Sys2Proof.Machine
end

