-- ==== Sys2Proof/Machine/TimeCommands.lean ====
section
/-! DEFINITION. SET_TIMEBASE, SYNC_NOW, READ_TIME (R143, R144, R147). -/

namespace Sys2Proof.Machine
open Sys2Proof

/-- The consequences of accepted settings at the taking: a change of prescale restarts the division, a role
other than LEADER ends a SYNC pulse, XT output off ends an XT pulse (R144). -/
def settleTimebase (old new : Timebase) : Timebase :=
  { new with
    divider := if new.prescale = old.prescale then old.divider else 0
    syncPulse := if new.role = .leader then old.syncPulse else none
    xtPulse := if new.xtOut then old.xtPulse else none }

/-- SET TIMEBASE (R144); the payload carries the settings whatever the status. -/
def judgeSetTimebase (a : TimebaseArgs) (s : State) : Reply × State :=
  if s.sessionActive then (reply .locked (timebasePayload s.tb), s)
  else
    match timebase? a s.tb with
    | none => (reply .badArg (timebasePayload s.tb), s)
    | some new =>
      let tb := settleTimebase s.tb new
      (reply .ok (timebasePayload tb), { s with tb := tb })

def execSetTimebase (a : TimebaseArgs) (s : State) : Host.Outcome State Fault Refusal :=
  .next (takeCommand (.setTimebase a) (judgeSetTimebase a) s)

/-- SYNC NOW (R147): whether a pulse was begun, and the timestamp as it stood before. -/
def judgeSyncNow (s : State) : Reply × State :=
  if s.tb.role = .leader then
    (reply .ok (onOffByte s.tb.syncPulse.isNone :: beBytes 5 s.tb.time.toNat), emitSync s)
  else (reply .badArg, s)

def execSyncNow (s : State) : Host.Outcome State Fault Refusal := .next (takeCommand .syncNow judgeSyncNow s)

/-- READ TIME (R143). -/
def judgeReadTime (s : State) : Reply × State :=
  (reply .ok (beBytes 5 s.tb.time.toNat ++ [pulseByte s.syncPin s.xtPin]), s)

def execReadTime (s : State) : Host.Outcome State Fault Refusal :=
  .next (takeCommand .readTime judgeReadTime s)

end Sys2Proof.Machine
end

