-- ==== Sys2Proof/Machine/Dispatch.lean ====
section
/-! DEFINITION. The meaning of every command: one arm per constructor of Instr. -/

namespace Sys2Proof.Machine
open Sys2Proof

def exec (i : Instr) (s : State) : Host.Outcome State Fault Refusal :=
  match i with
  | .powerOn => Sys2Proof.Machine.execPowerOn s
  | .powerOnResetEnd => Sys2Proof.Machine.execPowerOnResetEnd s
  | .resetNAsserted => Sys2Proof.Machine.execResetNAsserted s
  | .resetNReleased => Sys2Proof.Machine.execResetNReleased s
  | .powerLoss => Sys2Proof.Machine.execPowerLoss s
  | .selectAsserted n => Sys2Proof.Machine.execSelectAsserted n s
  | .selectNegated n => Sys2Proof.Machine.execSelectNegated n s
  | .samplingEdge link => Sys2Proof.Machine.execSamplingEdge link s
  | .opcodeComplete lanes => Sys2Proof.Machine.execOpcodeComplete lanes s
  | .addressComplete lanes => Sys2Proof.Machine.execAddressComplete lanes s
  | .waitDone lanes => Sys2Proof.Machine.execWaitDone lanes s
  | .dataByteComplete lanes => Sys2Proof.Machine.execDataByteComplete lanes s
  | .trailPulse lanes => Sys2Proof.Machine.execTrailPulse lanes s
  | .opaquePulse lanes => Sys2Proof.Machine.execOpaquePulse lanes s
  | .timebaseTick => Sys2Proof.Machine.execTimebaseTick s
  | .stageTimeout => Sys2Proof.Machine.execStageTimeout s
  | .holdExpired => Sys2Proof.Machine.execHoldExpired s
  | .syncPulseEnd => Sys2Proof.Machine.execSyncPulseEnd s
  | .xtPulseEnd => Sys2Proof.Machine.execXtPulseEnd s
  | .syncEdge => Sys2Proof.Machine.execSyncEdge s
  | .xtEdge => Sys2Proof.Machine.execXtEdge s
  | .sSelAsserted => Sys2Proof.Machine.execSSelAsserted s
  | .sSelNegated => Sys2Proof.Machine.execSSelNegated s
  | .argumentByte input => Sys2Proof.Machine.execArgumentByte input s
  | .unknownCommand code => Sys2Proof.Machine.execUnknownCommand code s
  | .replyReady => Sys2Proof.Machine.execReplyReady s
  | .replyComplete => Sys2Proof.Machine.execReplyComplete s
  | .status => Sys2Proof.Machine.execStatus s
  | .nextEvent => Sys2Proof.Machine.execNextEvent s
  | .setEventMask kinds => Sys2Proof.Machine.execSetEventMask kinds s
  | .softReset => Sys2Proof.Machine.execSoftReset s
  | .linkControl decode idle opcodeLanes => Sys2Proof.Machine.execLinkControl decode idle opcodeLanes s
  | .putOpcodeEntry args => Sys2Proof.Machine.execPutOpcodeEntry args s
  | .getOpcodeEntry form value => Sys2Proof.Machine.execGetOpcodeEntry form value s
  | .dropOpcodeEntry opcode => Sys2Proof.Machine.execDropOpcodeEntry opcode s
  | .putSlot args => Sys2Proof.Machine.execPutSlot args s
  | .getSlot slot => Sys2Proof.Machine.execGetSlot slot s
  | .putStage args => Sys2Proof.Machine.execPutStage args s
  | .getStage stage => Sys2Proof.Machine.execGetStage stage s
  | .putSequence count => Sys2Proof.Machine.execPutSequence count s
  | .putCaptureSetup args => Sys2Proof.Machine.execPutCaptureSetup args s
  | .getCaptureSetup => Sys2Proof.Machine.execGetCaptureSetup s
  | .forceTrigger => Sys2Proof.Machine.execForceTrigger s
  | .arm traceOption startOption => Sys2Proof.Machine.execArm traceOption startOption s
  | .stop => Sys2Proof.Machine.execStop s
  | .clearTrace => Sys2Proof.Machine.execClearTrace s
  | .readRecord => Sys2Proof.Machine.execReadRecord s
  | .peekRecord => Sys2Proof.Machine.execPeekRecord s
  | .skipRecords count => Sys2Proof.Machine.execSkipRecords count s
  | .mark => Sys2Proof.Machine.execMark s
  | .rewind => Sys2Proof.Machine.execRewind s
  | .release => Sys2Proof.Machine.execRelease s
  | .setWatermark level => Sys2Proof.Machine.execSetWatermark level s
  | .setTimebase args => Sys2Proof.Machine.execSetTimebase args s
  | .syncNow => Sys2Proof.Machine.execSyncNow s
  | .readTime => Sys2Proof.Machine.execReadTime s
  | .tallyControl choice => Sys2Proof.Machine.execTallyControl choice s
  | .tallySnapshot choice => Sys2Proof.Machine.execTallySnapshot choice s
  | .readTally row => Sys2Proof.Machine.execReadTally row s

end Sys2Proof.Machine
end

