-- ==== Sys2Proof/Safety.lean ====
section
/-! DEFINITION. What counts as a sound state of the part: the invariants its chapters state, in the terms the
claims use. -/

namespace Sys2Proof.Machine
open Sys2Proof

/-- The trace's accounting (R102): held units and free units make 16,384; every record is 4 to 36 units; the
cursor designates a held record or the position after the newest (R124); with no mark it designates the oldest,
and a mark designates the oldest (Note after R112). The data keep and a frame's stored bytes stay within 256,
which is what bounds a record (R29, R78). -/
def TraceSound (s : State) : Prop :=
  s.tm.free + unitsOf s.tm.trace = Config.traceUnits ∧
  (∀ h ∈ s.tm.trace, 4 ≤ h.record.units ∧ h.record.units ≤ 36) ∧
  s.ru.cursor ≤ s.tm.trace.length ∧
  (s.ru.mark = none → s.ru.cursor = 0) ∧
  (∀ m, s.ru.mark = some m → m = 0 ∧ s.tm.trace ≠ []) ∧
  s.cc.setup.keep ≤ 256 ∧
  (∀ ctx, s.tap.boundary = .inFrame ctx → ctx.storeLimit ≤ 256 ∧ ctx.stored.length ≤ ctx.storeLimit)

/-- No two positions of the Opcode Table hold entries with the same opcode value (R18). -/
def OpcodesUnique (t : OpcodeTable) : Prop :=
  ∀ i j : Fin 32, ∀ e f : OpcodeEntry, t.get i = some e → t.get j = some f → e.opcode = f.opcode → i = j

/-- The event queue's shape (R166, R168): at most 16 entries; EVENTS_LOST only as the newest, and in the 16th
position nothing else; at most one RECORDS_LOST, one CURSOR_SKIPPED and one WATERMARK. -/
def QueueSound (q : List Entry) : Prop :=
  q.length ≤ 16 ∧
  (∀ e ∈ q.dropLast, e.event.isEventsLost = false) ∧
  (q.length = 16 → ∃ e ∈ q, e.event.isEventsLost = true) ∧
  q.countP (fun e => e.event.isRecordsLost) ≤ 1 ∧
  q.countP (fun e => e.event.isCursorSkipped) ≤ 1 ∧
  q.countP (fun e => e.event.isWatermark) ≤ 1

/-- The Trigger Sequencer's runtime state (R57, R61): WATCHING below the stage count with the count below C;
IDLE at stage 0, count 0, no timer; TRIGGERED with count 0 and no timer. It leaves IDLE only while the capture
state is a storing state (R62, R63). -/
def SequencerSound (s : State) : Prop :=
  1 ≤ s.seq.count ∧ s.seq.count ≤ 4 ∧
  (∀ k : Fin 4, 1 ≤ (s.seq.stages.get k).required) ∧
  (s.seq.state = .watching → s.seq.stage.val < s.seq.count ∧ s.seq.occ < s.seq.current.required) ∧
  (s.seq.state = .idle → s.seq.stage = 0 ∧ s.seq.occ = 0 ∧ s.seq.timer = none) ∧
  (s.seq.state = .triggered → s.seq.occ = 0 ∧ s.seq.timer = none) ∧
  (s.seq.state ≠ .idle → s.cc.state.storing = true)

/-- The watermark state says whether the unread count has reached W, and is BELOW with W at 0 (R135, R136). -/
def WatermarkSound (s : State) : Prop :=
  s.ru.reached = true ↔ s.ru.watermark ≠ 0 ∧ s.ru.watermark ≤ s.unread

/-- HOLD runs only under the hold conditions and below 144 free units, and is not left released under them
below 72 (R114). -/
def HoldSound (s : State) : Prop :=
  (s.tm.episode.isSome = true → holdConditions s = true ∧ s.tm.free < Config.holdOffFrom) ∧
  (s.tm.episode = none → ¬(holdConditions s = true ∧ s.tm.free < Config.holdOnBelow))

/-- The tap's boundary state agrees with the selects, the decode enable and the resets (R3, R13), and the port's
frame state with S_SEL and the resets (R157). In reset decode enable is on (R4, R14). -/
def BoundarySound (s : State) : Prop :=
  (s.tap.boundary = .reset ↔ s.inReset = true) ∧
  (s.tap.boundary = .off ↔ s.inReset = false ∧ s.tap.decodeEnable = false) ∧
  (s.inReset = true → s.tap.decodeEnable = true) ∧
  (s.tap.boundary = .idle → s.hSel = 0) ∧
  (s.tap.boundary = .skipping → s.hSel ≠ 0) ∧
  (∀ ctx, s.tap.boundary = .inFrame ctx → s.hSel ≠ 0) ∧
  (s.sp.frame = .reset ↔ s.inReset = true) ∧
  (s.sp.frame = .noFrame ↔ s.inReset = false ∧ s.sSel = false)

/-- The place the port holds in its frame (R156, R161, R163): fewer than eight bits of a byte in progress, and none
outside COMMAND and REPLY; S_DO at the bits of 0xFF in COMMAND; a reply in the buffer exactly in REPLY; a byte of it
in progress only of a ready one; and in the reply phase at most 16 pending bytes sent, the reply ready after the 16th and
no further one in progress (R193). -/
def PlaceSound (s : State) : Prop :=
  s.sp.bits.length < 8 ∧
  (s.sp.bits ≠ [] → s.sp.frame = .reply ∨ ∃ bytes, s.sp.frame = .command bytes) ∧
  (∀ bytes, s.sp.frame = .command bytes → s.sp.out = true) ∧
  (s.sp.frame = .reply ↔ s.sp.reply ≠ none) ∧
  (∀ k, s.sp.byteAt = some k → s.sp.frame = .reply ∧ s.sp.ready = true ∧ k < s.sp.replyBytes.length) ∧
  s.sp.pendingSent ≤ 16 ∧ (s.sp.frame ≠ .reply → s.sp.pendingSent = 0) ∧
  (s.sp.pendingSent = 16 → s.sp.ready = true ∧ (s.sp.byteAt = none → s.sp.bits = []))

/-- The pre-trigger accounting of an active session (R94): the pre-trigger record count is the number of
pre-trigger FRAME records held, and never above P; PRETRIG and POSTTRIG belong to WINDOW sessions. -/
def PreTriggerSound (s : State) : Prop :=
  (s.cc.state = .pretrig ∨ s.cc.state = .posttrig → s.cc.setup.mode = .window) ∧
  (s.cc.state.isActive = true →
    preRecords s.tm.trace = s.cc.preCount ∧ s.cc.preCount ≤ s.cc.setup.depth)

/-- A tally row within its counters' ranges (R183). -/
def TallyRow.bounded (r : TallyRow) : Prop :=
  (∀ k : Fin 6, (r.cells.get k).frames ≤ Config.max32 ∧ (r.cells.get k).bytes ≤ Config.max40) ∧
  r.truncated ≤ Config.max32 ∧ r.residue ≤ Config.max32 ∧ r.excess ≤ Config.max32

/-- A tally table within its counters' ranges (R183). -/
def TallyTable.bounded (t : TallyTable) : Prop :=
  (∀ n : Fin 4, (t.rows.get n).bounded) ∧ t.collisions ≤ Config.max32

/-- No counter of the first table is above the same counter of the second. -/
def TallyTable.le (a b : TallyTable) : Prop :=
  (∀ n : Fin 4,
    (∀ k : Fin 6, ((a.rows.get n).cells.get k).frames ≤ ((b.rows.get n).cells.get k).frames ∧
      ((a.rows.get n).cells.get k).bytes ≤ ((b.rows.get n).cells.get k).bytes) ∧
    (a.rows.get n).truncated ≤ (b.rows.get n).truncated ∧
    (a.rows.get n).residue ≤ (b.rows.get n).residue ∧ (a.rows.get n).excess ≤ (b.rows.get n).excess) ∧
  a.collisions ≤ b.collisions

/-- The evaluation state's hit set holds exactly the slots whose done indication is set (R46, R52). -/
def EvaluationSound (s : State) : Prop :=
  ∀ e, s.mu.eval = some e → ∀ i : Fin 8, e.hits.getLsbD i.val = (e.progress.get i).done

/-- The trace holds no record twice (R102): the records' names (the model's own, log 9) are distinct, and a read
in flight names a record that has been appended. -/
def RecordsDistinct (s : State) : Prop :=
  (s.tm.trace.map Held.id).Nodup ∧ (∀ h ∈ s.tm.trace, h.id < s.tm.nextId) ∧
  (∀ id, s.ru.inFlight = some id → id < s.tm.nextId)

/-- The port is in COMMAND, and every byte of the command with this code and these argument bytes has arrived
but the last one, of which the bits clocked so far are its own (R156, R158); the command's row carries the rest. -/
def Received (code : Byte) (args : List Byte) (s : State) : Prop :=
  s.sp.frame = .command (code :: args).dropLast ∧ s.sp.bits <+: byteBits ((code :: args).getLastD 0)

/-- The command is taken, at the rising edge that samples the last bit of its last byte: its reply is in the buffer,
the service frame in REPLY, the reply not ready yet and none of its bytes begun (R156, R157, R159, R161), and beside
that the state is `t`. -/
def Answers (i : Instr) (s : State) (r : Reply) (t : State) : Prop := exec i s = .next (setReply r (lastByteOf i) t)

/-- The tap IN FRAME with a frame context (R3). -/
def LinkTap.inFrame (t : LinkTap) (ctx : FrameContext) : LinkTap := { t with boundary := .inFrame ctx }

/-- The state once the opening select `n` has begun a frame (R10, R29, R45, R46, R88): its context, numbered and
evaluated if the capture state is a storing state; `hold` is HOLD at that moment (R17). -/
def frameOpened (n : Fin 4) (hold : Bool) (s : State) : State :=
  { s with
    hSel := selectBit n
    tap := { s.tap with
      boundary := .inFrame
        { openingSelect := n, target := none, startTime := s.tb.time, duration := 0,
          idleLevel := s.tap.idleLevel, opcodeLanes := s.tap.opcodeLanes, holdViolation := hold,
          timeReset := false, decoding := .opcode 0 0, opcode := none, entry := none, address := none,
          dataCount := 0, storeLimit := if s.cc.state.storing then s.cc.setup.keep else 0, stored := [],
          word := [], wordOffset := 0, firstWord := true, truncated := false, residue := false,
          excess := false, collision := false }
      frameStarts := s.tap.frameStarts + 1 }
    mu := { s.mu with
      eval := if s.cc.state.storing then
          some { copy := s.mu.slots, start := s.tap.frameStarts + 1,
                 progress := Vector.replicate 8 { done := false, words := 0, openPair := false }, hits := 0 }
        else none }
    cc := { s.cc with
      current := some { number := if s.cc.state.storing then some s.cc.nextFrame else none,
                        member := s.cc.state.storing, pending := false }
      nextFrame := if s.cc.state.storing then s.cc.nextFrame + 1 else s.cc.nextFrame } }

/-- A slot taken through the data words of a frame, in link order: whether it has hit (R48, R49, R52). -/
def hitsAmong (ctx : FrameContext) (f : Slot) (p : SlotProgress) : List DataWord → Bool
  | [] => false
  | w :: rest =>
    (slotPoint (wordAt ctx w) f p).2 || hitsAmong ctx f (slotPoint (wordAt ctx w) f p).1 rest

/-- What events, records, hits, triggers, losses, completions and the judgements after a happening leave as it
was: `t` differs from `s` at most in: the sequencer's runtime state, the Capture Controller's runtime state but
the next frame number, the Trace Memory, the cursor, the mark and the watermark state, the XT pulse and
time-reset pending, the event queue and the event in flight. -/
structure Quiet (s t : State) : Prop where
  powered : t.powered = s.powered
  porActive : t.porActive = s.porActive
  resetLow : t.resetLow = s.resetLow
  hSel : t.hSel = s.hSel
  hClk : t.hClk = s.hClk
  lanes : t.lanes = s.lanes
  sSel : t.sSel = s.sSel
  sLine : t.sLine = s.sLine
  tap : t.tap = s.tap
  opTable : t.opTable = s.opTable
  mu : t.mu = s.mu
  count : t.seq.count = s.seq.count
  stages : t.seq.stages = s.seq.stages
  sessionStart : t.seq.sessionStart = s.seq.sessionStart
  setup : t.cc.setup = s.cc.setup
  nextFrame : t.cc.nextFrame = s.cc.nextFrame
  readInFlight : t.ru.inFlight = s.ru.inFlight
  watermark : t.ru.watermark = s.ru.watermark
  time : t.tb.time = s.tb.time
  divider : t.tb.divider = s.tb.divider
  prescale : t.tb.prescale = s.tb.prescale
  role : t.tb.role = s.tb.role
  syncAtArm : t.tb.syncAtArm = s.tb.syncAtArm
  xtOut : t.tb.xtOut = s.tb.xtOut
  xtLen : t.tb.xtLen = s.tb.xtLen
  xtIn : t.tb.xtIn = s.tb.xtIn
  syncPulse : t.tb.syncPulse = s.tb.syncPulse
  frame : t.sp.frame = s.sp.frame
  reply : t.sp.reply = s.sp.reply
  ready : t.sp.ready = s.sp.ready
  bits : t.sp.bits = s.sp.bits
  byteAt : t.sp.byteAt = s.sp.byteAt
  pendingSent : t.sp.pendingSent = s.sp.pendingSent
  out : t.sp.out = s.sp.out
  mask : t.sp.mask = s.sp.mask
  tally : t.tally = s.tally
  pending : t.pending = s.pending

/-- A reset from outside: power-on, the assertion of RESET_N, the loss of supply. -/
def hardReset : Instr → Bool
  | .powerOn => true
  | .resetNAsserted => true
  | .powerLoss => true
  | _ => false

/-- What software configures and a session runs on: the Opcode Table, the slots, the stage count and the
descriptors, the capture setup, the link configuration, the timebase settings (9.3, the commands refused
LOCKED). -/
structure Configuration where
  opTable : OpcodeTable
  slots : Vector Slot 8
  count : Nat
  stages : Vector Stage 4
  setup : Setup
  decodeEnable : Bool
  idleLevel : Bool
  opcodeLanes : OpcodeLanes
  prescale : Nat
  role : Role
  syncAtArm : Bool
  xtOut : Bool
  xtLen : Nat
  xtIn : Bool
deriving DecidableEq, Repr

/-- The configuration a state holds. -/
def State.config (s : State) : Configuration :=
  { opTable := s.opTable, slots := s.mu.slots, count := s.seq.count, stages := s.seq.stages,
    setup := s.cc.setup, decodeEnable := s.tap.decodeEnable, idleLevel := s.tap.idleLevel,
    opcodeLanes := s.tap.opcodeLanes, prescale := s.tb.prescale, role := s.tb.role,
    syncAtArm := s.tb.syncAtArm, xtOut := s.tb.xtOut, xtLen := s.tb.xtLen, xtIn := s.tb.xtIn }

/-- The queue once an event's count has been added into a held entry, which stands as `x` between `pre` and `post`:
where it is the head and its copy is in flight, the time of the first addition is kept (R168, R172). -/
def detailAdded (s : State) (pre : List Entry) (x : Entry) (post : List Entry) : State :=
  { s with
    sp := { s.sp with
      queue := pre ++ x :: post
      inFlight := if pre = [] then
          s.sp.inFlight.map fun f => { f with addedAt := some (f.addedAt.getD s.tb.time) }
        else s.sp.inFlight } }

/-- An entry of the event's own kind is held, for the three kinds of which the queue holds one at most (R168, first
and second case). -/
def ownKindHeld (e : Event) (queue : List Entry) : Prop :=
  (e.isRecordsLost = true ∧ ∃ x ∈ queue, x.event.isRecordsLost = true) ∨
  (e.isCursorSkipped = true ∧ ∃ x ∈ queue, x.event.isCursorSkipped = true) ∨
  (e.isWatermark = true ∧ ∃ x ∈ queue, x.event.isWatermark = true)

/-- The argument bytes of PUT OPCODE ENTRY spell this entry (R19, R190, R192). -/
def OpcodeEntryArgs.spell (a : OpcodeEntryArgs) (e : OpcodeEntry) : Prop :=
  e.opcode = a.opcode ∧ e.kind ≠ .unlisted ∧ a.kind = byte e.kind.code ∧
  a.addrBytes = byte (AddrBytes.toNat e.addrBytes) ∧ a.addrWidth = byte e.addrWidth.code ∧
  a.wait = byte e.wait.val ∧ a.direction = byte e.direction.code ∧ a.dataWidth = byte e.dataWidth.code

/-- The argument bytes of PUT SLOT spell these eleven fields, and the fields pass its checks (R43, R191): a window
whose low bound is not above its high bound, and ANOMALY with a set and with no window. With opcode ANY the value
byte, and with the window absent the bounds, are not kept. -/
def SlotArgs.spell (a : SlotArgs) (f : Slot) : Prop :=
  a.enabled = onOffByte f.enabled ∧ a.targets = f.targets.setWidth 8 ∧ a.kinds = f.kinds.setWidth 8 ∧
  ((a.opcodeForm = 0 ∧ f.opcode = some a.opcodeValue) ∨ (a.opcodeForm = 1 ∧ f.opcode = none)) ∧
  ((a.windowForm = 0 ∧ f.window = none) ∨
    (a.windowForm = 1 ∧ f.window = some (a.low, a.high) ∧ a.low ≤ a.high ∧ f.condition ≠ .anomaly)) ∧
  a.condition = byte f.condition.code ∧ f.v1 = a.v1 ∧ f.v2 = a.v2 ∧ f.mask = a.mask ∧
  a.anomalies = f.anomalies.setWidth 8 ∧ a.scope = byte f.scope.code ∧
  (f.condition = .anomaly → f.anomalies ≠ 0)

/-- The argument bytes of PUT STAGE spell this descriptor, with a required count of 1 or more (R58, R191). -/
def StageArgs.spell (a : StageArgs) (g : Stage) : Prop :=
  a.advance = g.advance.setWidth 16 ∧ a.restart = g.restart.setWidth 16 ∧ g.required = a.required.toNat ∧
  1 ≤ g.required ∧ g.timeout = a.timeout.toNat ∧ a.action = byte g.action.code

/-- The argument bytes of PUT CAPTURE SETUP spell this setup, each field within its range (R79, R191). -/
def SetupArgs.spell (a : SetupArgs) (c : Setup) : Prop :=
  a.mode = byte c.mode.code ∧ a.repeating = onOffByte c.repeating ∧
  c.depth = a.depth.toNat ∧ c.depth ≤ 4095 ∧ c.post = a.post.toNat ∧ c.keep = a.keep.toNat ∧ c.keep ≤ 256 ∧
  a.policy = byte c.policy.code ∧ c.holdLimit = a.holdLimit.toNat ∧ c.holdLimit ≤ 16777215 ∧
  a.filterKinds = c.filterKinds.setWidth 8 ∧ a.filterTargets = c.filterTargets.setWidth 8 ∧
  c.qualifier = a.qualifier ∧ a.anomaliesAlways = onOffByte c.anomaliesAlways

/-- The argument bytes of SET TIMEBASE are among the six settings' values (R144, R191). -/
def TimebaseArgs.allowed (a : TimebaseArgs) : Prop :=
  1 ≤ a.prescale.toNat ∧ a.prescale.toNat ≤ 65536 ∧ a.role.toNat ≤ 2 ∧ a.syncAtArm.toNat ≤ 1 ∧
  a.xtOut.toNat ≤ 1 ∧ a.xtLen ≠ 0 ∧ a.xtIn.toNat ≤ 1

/-- The transitions that clock bits into the port: for each, S_CLK low with S_DI at the bit, then S_CLK high (R156). -/
def clockedBits (bits : List Bool) : List ServiceLine :=
  bits.flatMap fun d => [{ clock := false, data := d }, { clock := true, data := d }]

/-- The state after a run of transitions of the service lines, each an ARGUMENT BYTE row. -/
def afterEdges : List ServiceLine → State → State
  | [], s => s
  | k :: rest, s =>
    match exec (.argumentByte (.edge k)) s with
    | .next t => afterEdges rest t
    | _ => s

end Sys2Proof.Machine
end

