-- ==== Sys2Proof/Certificates/Slice0/Obligations.lean ====
section
/-! DEFINITION. The statements for the provers. -/

open Sys2Proof Sys2Proof.Machine

/-! ### The machine as a whole -/

/-- Every step is the command at the front of the queue, run with the queue's rest; on an empty queue the part
idles (the model's form of taking happenings one at a time, log 2; 95_what_each_step_holds.md). -/
def Obligations.StepRunsFrontCommand : Prop :=
  (∀ (c : Instr) (rest : List Instr) (s : State),
    step { s with pending := c :: rest } = exec c { s with pending := rest }) ∧
  (∀ s : State, s.pending = [] → step s = .next s)

/-- No command stops the part: each answers a next state, and leaves the commands still waiting alone. That no
command faults or is refused is the model's reading of the manual (DEDUCED, log 21), and the waiting queue is the
model's own (log 2). -/
def Obligations.EveryCommandAnswersNext : Prop :=
  ∀ (i : Instr) (s : State), ∃ t, exec i s = .next t ∧ t.pending = s.pending

/-- The state after reset meets every invariant stated below. -/
def Obligations.ResetMeetsInvariants : Prop :=
  TraceSound State.reset ∧ RecordsDistinct State.reset ∧ QueueSound State.reset.sp.queue ∧
  SequencerSound State.reset ∧ WatermarkSound State.reset ∧ HoldSound State.reset ∧
  BoundarySound State.reset ∧ PlaceSound State.reset ∧ PreTriggerSound State.reset ∧ EvaluationSound State.reset ∧
  OpcodesUnique State.reset.opTable ∧ State.reset.tally.live.bounded ∧ State.reset.tally.snap.bounded

/-- R102, R124, Note after R112: the trace's accounting is kept by every step, and the trace holds no record twice
(by the model's own names of records, log 9). -/
def Obligations.StepKeepsTraceSound : Prop :=
  (∀ s t : State, TraceSound s → step s = .next t → TraceSound t) ∧
  (∀ s t : State, RecordsDistinct s → step s = .next t → RecordsDistinct t)

/-- R166, R168: the event queue's shape is kept by every step. -/
def Obligations.StepKeepsQueueSound : Prop :=
  ∀ s t : State, QueueSound s.sp.queue → step s = .next t → QueueSound t.sp.queue

/-- R57, R61, R62, R63: the sequencer's runtime state keeps its ranges, and it leaves IDLE only in a storing
state. -/
def Obligations.StepKeepsSequencerSound : Prop :=
  ∀ s t : State, SequencerSound s → step s = .next t → SequencerSound t

/-- R135, R136: the watermark state says at every moment whether the unread count has reached W. -/
def Obligations.StepKeepsWatermarkSound : Prop :=
  ∀ s t : State, WatermarkSound s → step s = .next t → WatermarkSound t

/-- R114: HOLD is asserted only under the hold conditions below 144 free units, and is not left released under
them below 72. -/
def Obligations.StepKeepsHoldSound : Prop :=
  ∀ s t : State, HoldSound s → step s = .next t → HoldSound t

/-- R3, R4, R13, R157: the boundary state agrees with the selects, the decode enable and the resets, and the service
frame state with S_SEL and the resets. R156, R161, R163: the port holds its place in a frame: fewer than eight bits of
a byte in progress, dropped with the frame, 0xFF on S_DO in COMMAND, and a byte of the reply in progress only within a
ready reply in the buffer. R193: at most 16 pending bytes in a reply phase, as the model's count has it, which makes
the reply ready with the 16th (DESIGN CHOICE, log 22). That a part without supply counts as in reset is the model's
choice (log 10), and where two resets hold the part it leaves reset when the later one ends (log 11). -/
def Obligations.StepKeepsBoundarySound : Prop :=
  (∀ s t : State, BoundarySound s → step s = .next t → BoundarySound t) ∧
  (∀ s t : State, BoundarySound s → PlaceSound s → step s = .next t → PlaceSound t)

/-- R94: in an active session the pre-trigger record count is the number of pre-trigger FRAME records held, and
is never above P. -/
def Obligations.StepKeepsPreTriggerSound : Prop :=
  ∀ s t : State, PreTriggerSound s → step s = .next t → PreTriggerSound t

/-- R46, R52: the hit set of the frame in progress holds exactly the slots that are done. -/
def Obligations.StepKeepsEvaluationSound : Prop :=
  ∀ s t : State, EvaluationSound s → step s = .next t → EvaluationSound t

/-- R18: no two positions hold the same opcode value, and an entry stays at its position until a DROP of that
opcode or a reset from outside. -/
def Obligations.StepKeepsOpcodePositions : Prop :=
  (∀ s t : State, OpcodesUnique s.opTable → step s = .next t → OpcodesUnique t.opTable) ∧
  (∀ (i : Instr) (s t : State) (p : Fin 32) (e : OpcodeEntry), OpcodesUnique s.opTable →
    exec i s = .next t → hardReset i = false → i ≠ .dropOpcodeEntry e.opcode → s.opTable.get p = some e →
    ∃ e', t.opTable.get p = some e' ∧ e'.opcode = e.opcode)

/-- R179, R183: every counter of both tally tables stays within its range, and no counter of the live table
falls but by TALLY SNAPSHOT with CLEAR and by a reset from outside. -/
def Obligations.TallyCountersBoundedAndMonotone : Prop :=
  (∀ s t : State, s.tally.live.bounded → s.tally.snap.bounded → step s = .next t →
    t.tally.live.bounded ∧ t.tally.snap.bounded) ∧
  (∀ (i : Instr) (s t : State), s.tally.live.bounded → exec i s = .next t → hardReset i = false →
    i ≠ .tallySnapshot 1 → s.tally.live.le t.tally.live)

/-- 9.3, LOCKED; R5, R19, R21, R43, R58, R60, R79, R144: while a session is active, no command but a reset from
outside changes what the session is configured with. -/
def Obligations.SessionKeepsConfiguration : Prop :=
  ∀ (i : Instr) (s t : State), s.sessionActive = true → hardReset i = false → exec i s = .next t →
    t.config = s.config

/-- R158, R190, R191: the bytes received say which command is taken and with which arguments: no two commands
are spelled alike. -/
def Obligations.ServiceBytesDetermineCommand : Prop :=
  ∀ (i j : Instr) (b : List Byte), i.serviceBytes = some b → j.serviceBytes = some b → i = j

/-- R1, R2: the pass-through. With supply the memory-side selects and clock are the host-side ones, level for level,
and each lane's two pins carry the level of the side that drives it, or rest at their own pull resistors. It takes
no input from the rest of the part: two states that agree in the supply and in the link's lines still agree after
any one command, whatever else differs in them. The six rows that name what a pulse brings about are left out: they
come about only where the pulse is the one they name (log 5). Every transition of H_CLK is a SAMPLING EDGE row (log
15). -/
def Obligations.RepeatersIgnoreTheMonitor : Prop :=
  (∀ s : State, s.powered = true → s.mSel = some s.hSel ∧ s.mClk = some s.hClk ∧
    ∃ h m : BitVec 4, s.hD = some h ∧ s.mD = some m ∧
      ∀ p ∈ [(0, s.lanes.d0), (1, s.lanes.d1), (2, s.lanes.d2), (3, s.lanes.d3)],
        (∀ v, p.2 = .host v ∨ p.2 = .memory v → h.getLsbD p.1 = v ∧ m.getLsbD p.1 = v) ∧
        (∀ a b, p.2 = .undriven a b → h.getLsbD p.1 = a ∧ m.getLsbD p.1 = b)) ∧
  (∀ (i : Instr) (s s' t t' : State),
    (∀ l, i ≠ .opcodeComplete l ∧ i ≠ .addressComplete l ∧ i ≠ .waitDone l ∧ i ≠ .dataByteComplete l ∧
      i ≠ .trailPulse l ∧ i ≠ .opaquePulse l) →
    s.powered = s'.powered → s.hSel = s'.hSel → s.hClk = s'.hClk → s.lanes = s'.lanes →
    exec i s = .next t → exec i s' = .next t' →
    t.powered = t'.powered ∧ t.hSel = t'.hSel ∧ t.hClk = t'.hClk ∧ t.lanes = t'.lanes ∧
      t.mSel = t'.mSel ∧ t.mClk = t'.mClk ∧ t.hD = t'.hD ∧ t.mD = t'.mD)

/-! ### Supply and resets -/

/-- R3, R4, R14, R18, R38, R57, R78, R81, R121, R123, R140, R155, R166, R176, R179: power-on and the assertion of
RESET_N set every block to its reset values, the tap and the port to RESET, and cut what was in progress; the
input pins and the waiting commands are as they were. 1.1 Caution, R121: the loss of supply ends the pass-through
and loses everything held; that the blocks show their reset values until power-on is the model's choice (log 10), as are
the count of frame starts and the session start point, 0 after every reset (log 8), the level S_DO drives next while it
is released (log 29), and the link outputs without a level while there is no supply (log 23). RESET_N asserted when it is
low already or without supply is left out here (LeavingResetQueuesRestarted). -/
def Obligations.SupplyAndPinResetsSetEveryBlock : Prop :=
  (∀ s : State, exec .powerOn s = .next
    { s with
      powered := true, porActive := true, tap := LinkTap.reset, opTable := OpcodeTable.reset,
      mu := MatchUnit.reset, seq := Sequencer.reset, cc := Capture.reset, tm := TraceMemory.reset,
      ru := Readout.reset, tb := Timebase.reset, sp := ServicePort.reset, tally := Tally.reset }) ∧
  (∀ s : State, s.powered = true → s.resetLow = false → exec .resetNAsserted s = .next
    { s with
      resetLow := true, tap := LinkTap.reset, opTable := OpcodeTable.reset,
      mu := MatchUnit.reset, seq := Sequencer.reset, cc := Capture.reset, tm := TraceMemory.reset,
      ru := Readout.reset, tb := Timebase.reset, sp := ServicePort.reset, tally := Tally.reset }) ∧
  (∀ s : State, ∃ t, exec .powerLoss s = .next t ∧
    t = { s with
      powered := false, porActive := false, tap := LinkTap.reset, opTable := OpcodeTable.reset,
      mu := MatchUnit.reset, seq := Sequencer.reset, cc := Capture.reset, tm := TraceMemory.reset,
      ru := Readout.reset, tb := Timebase.reset, sp := ServicePort.reset, tally := Tally.reset } ∧
    t.mSel = none ∧ t.mD = none ∧ t.holdPin = false ∧ t.attnPin = false ∧ t.syncPin = false ∧ t.xtPin = false)

/-- R3, R13, R141, R166, R177: the end of power-on reset and the release of RESET_N put the tap in IDLE or SKIPPING by
the selects and the port in NO FRAME or IGNORING by S_SEL, restart the division and queue RESTARTED. Where both resets
hold the part, it leaves reset when the later one ends, with that one's cause (log 11). A row whose happening cannot
come about changes nothing (log 4), and without supply RESET_N changes its pin alone (log 10). The division is not
counted (log 12). -/
def Obligations.LeavingResetQueuesRestarted : Prop :=
  (∀ s : State, s.powered = true → s.porActive = true → s.resetLow = false →
    exec .powerOnResetEnd s = .next
      { s with
        porActive := false
        tap := { s.tap with boundary := if s.hSel = 0 then .idle else .skipping }
        tb := { s.tb with divider := 0 }
        sp := { s.sp with
          frame := if s.sSel then .ignoring else .noFrame
          queue := [{ event := .restarted .power, time := s.tb.time }] } }) ∧
  (∀ s : State, s.powered = true → s.porActive = false → s.resetLow = true →
    exec .resetNReleased s = .next
      { s with
        resetLow := false
        tap := { s.tap with boundary := if s.hSel = 0 then .idle else .skipping }
        tb := { s.tb with divider := 0 }
        sp := { s.sp with
          frame := if s.sSel then .ignoring else .noFrame
          queue := [{ event := .restarted .pin, time := s.tb.time }] } }) ∧
  (∀ s : State, s.powered = true → s.porActive = true → s.resetLow = true →
    exec .powerOnResetEnd s = .next { s with porActive := false } ∧
    exec .resetNReleased s = .next { s with resetLow := false }) ∧
  (∀ s : State,
    (s.powered = false ∨ s.porActive = false → exec .powerOnResetEnd s = .next s) ∧
    (s.resetLow = true → exec .resetNAsserted s = .next s) ∧
    (s.resetLow = false → exec .resetNReleased s = .next s) ∧
    (s.powered = false → s.resetLow = false → exec .resetNAsserted s = .next { s with resetLow := true }) ∧
    (s.powered = false → s.resetLow = true → exec .resetNReleased s = .next { s with resetLow := false }))

/-! ### The monitored link -/

/-- R3, R10, R17, R29, R45, R46, R88, R118: in IDLE, with no select asserted, the assertion of a select begins a
frame. While HOLD is asserted the frame carries the HOLD_VIOLATION note, and the first such frame of an episode
raises HOLD_VIOLATION with the select's number.
The count of frame starts is the model's own (log 8). -/
def Obligations.SelectOpensFrame : Prop :=
  ∀ (n : Fin 4) (s : State), s.tap.boundary = .idle → s.hSel = 0 →
    (s.tm.episode = none → exec (.selectAsserted n) s = .next (frameOpened n false s)) ∧
    (∀ e, s.tm.episode = some e → e.violated = true →
      exec (.selectAsserted n) s = .next (frameOpened n true s)) ∧
    (∀ e, s.tm.episode = some e → e.violated = false →
      exec (.selectAsserted n) s = .next
        (raiseEvent (.holdViolation n)
          { frameOpened n true s with tm := { s.tm with episode := some { e with violated := true } } }))

/-- R3, R11, R12: a select asserted while another is asserted sets COLLISION IN FRAME, and has no effect on the tap
in RESET, OFF and SKIPPING. The negation of a select while others are asserted, and in RESET, OFF and IDLE, changes
its line alone; the last negation in SKIPPING leads to IDLE. A line already at the level makes no change (log 4). -/
def Obligations.SelectsElsewhereChangeTheirLines : Prop :=
  ∀ (n : Fin 4) (s : State),
    (s.hSel.getLsbD n.val = true → exec (.selectAsserted n) s = .next s) ∧
    (s.hSel.getLsbD n.val = false → s.hSel ≠ 0 → ∀ ctx, s.tap.boundary = .inFrame ctx →
      exec (.selectAsserted n) s = .next
        { s with
          hSel := s.hSel ||| selectBit n
          tap := s.tap.inFrame { ctx with collision := true } }) ∧
    (s.hSel.getLsbD n.val = false →
      s.tap.boundary = .reset ∨ s.tap.boundary = .off ∨ s.tap.boundary = .skipping →
      exec (.selectAsserted n) s = .next { s with hSel := s.hSel ||| selectBit n }) ∧
    (s.hSel.getLsbD n.val = false → exec (.selectNegated n) s = .next s) ∧
    (s.hSel.getLsbD n.val = true → s.hSel ≠ selectBit n →
      exec (.selectNegated n) s = .next { s with hSel := s.hSel &&& ~~~ selectBit n }) ∧
    (s.hSel = selectBit n → s.tap.boundary = .reset ∨ s.tap.boundary = .off ∨ s.tap.boundary = .idle →
      exec (.selectNegated n) s = .next { s with hSel := 0 }) ∧
    (s.hSel = selectBit n → s.tap.boundary = .skipping →
      exec (.selectNegated n) s = .next { s with hSel := 0, tap := { s.tap with boundary := .idle } })

/-- R12, R32 to R34, R37, R55, R56, R88, R180, R182: a frame that is no member of a session ends by the last negation:
it is closed, the Activity Tally counts it if its enable is on, the current frame becomes absent, the tap returns to
IDLE, and nothing else changes. A frame that is still evaluated, its session having ended or been stopped while it
was in progress, is evaluated to its end: the sequencer is not WATCHING, or the frame did not begin after its session
start point, so its groups have no effect (R64), and its evaluation closes.
The moments of frame starts are told by the model's own count (log 8). -/
def Obligations.FrameEndOutsideSession : Prop :=
  ∀ (n : Fin 4) (s : State) (ctx : FrameContext), s.hSel = selectBit n → s.tap.boundary = .inFrame ctx →
    (∀ f, s.cc.current = some f → f.member = false) →
    (∀ e, s.mu.eval = some e → s.seq.state ≠ .watching ∨ e.start ≤ s.seq.sessionStart) →
    exec (.selectNegated n) s = .next
      { s with
        hSel := 0
        tap := { s.tap with boundary := .idle }
        mu := { s.mu with eval := none }
        cc := { s.cc with current := none }
        tally := if s.tally.enable then { s.tally with live := s.tally.live.count (ctx.closed s.tb.timeReset) }
          else s.tally }

/-- R88, R89, R90, R97, R100, R102, R103, R105, R150: a member frame that ends in a storing state is counted in frames
seen, and judged: it qualifies and its record is offered, or it brings nothing more. In STREAMING, with no loss run
pending and the sequencer TRIGGERED, the record of a qualified frame that fits is appended after the newest, counted
in frames qualified and records appended; the watermark and HOLD are then judged. Which frames qualify, and the
fields of the record, are said in full (R34, R76, R89, R90).
The record's name is the model's own (log 9). -/
def Obligations.MemberFrameIsJudgedAndRecorded : Prop :=
  (∀ (n : Fin 4) (s m e u : State) (ctx c : FrameContext) (f : CurrentFrame) (hits : BitVec 8),
    s.hSel = selectBit n → s.tap.boundary = .inFrame ctx →
    c = ctx.closed s.tb.timeReset → m = matchFrameEnd c { s with hSel := 0 } → hits = m.mu.hitSet →
    m.cc.current = some f → f.member = true → m.cc.state.storing = true →
    e = { m with
      mu := { m.mu with eval := none }
      cc := { m.cc with seen := satAdd Config.max32 m.cc.seen 1 } } →
    (qualifies m.cc c hits f.pending = false → u = e) →
    (qualifies m.cc c hits f.pending = true →
      u = offerFrame (frameRecord c (f.number.getD 0) hits m.seq.reported f.pending) f.pending
        { e with cc := { e.cc with qualified := satAdd Config.max32 m.cc.qualified 1 } }) →
    exec (.selectNegated n) s = .next (settle s
      { u with
        tap := { u.tap with boundary := .idle }
        cc := { u.cc with current := none }
        tally := u.tally.takeFrame c })) ∧
  (∀ (n : Fin 4) (s : State) (ctx : FrameContext) (f : CurrentFrame) (c : FrameContext) (m : State)
    (hits : BitVec 8) (r : FrameRecord),
    s.hSel = selectBit n → s.tap.boundary = .inFrame ctx → s.cc.state = .streaming →
    s.cc.current = some f → f.member = true → s.cc.loss = none → s.seq.state = .triggered →
    c = ctx.closed s.tb.timeReset → m = matchFrameEnd c { s with hSel := 0 } → hits = m.mu.hitSet →
    qualifies s.cc c hits f.pending = true → r = frameRecord c (f.number.getD 0) hits none f.pending →
    (Record.frame r).units ≤ s.tm.free →
    exec (.selectNegated n) s = .next (settle { s with hSel := 0 }
      { s with
        hSel := 0
        tap := { s.tap with boundary := .idle }
        mu := { s.mu with eval := none }
        cc := { s.cc with
          current := none, seen := satAdd Config.max32 s.cc.seen 1
          qualified := satAdd Config.max32 s.cc.qualified 1
          appended := satAdd Config.max32 s.cc.appended 1 }
        tm := { s.tm with
          trace := s.tm.trace ++ [{ id := s.tm.nextId, record := .frame r, pre := false }]
          nextId := s.tm.nextId + 1, free := s.tm.free - (4 + (c.stored.length + 7) / 8) }
        tb := { s.tb with timeReset := false }
        tally := s.tally.takeFrame c })) ∧
  (∀ (cc : Capture) (c : FrameContext) (hits : BitVec 8) (trigger : Bool) (kind : Nat) (target : Nat),
    kind = (match c.entry with
      | some e => e.kind.code
      | none => 5) →
    (∃ n : Fin 4, c.target = some (.sel n) ∧ target = n.val) ∨ (c.target = some .multiple ∧ target = 4) →
    (qualifies cc c hits trigger = true ↔
      trigger = true ∨
      (¬(cc.setup.mode = .window ∧ cc.setup.depth = 0 ∧ cc.state = .pretrig) ∧
        ((cc.setup.anomaliesAlways = true ∧
            (c.truncated = true ∨ c.residue = true ∨ c.excess = true ∨ c.collision = true)) ∨
          (cc.setup.filterKinds.getLsbD kind = true ∧ cc.setup.filterTargets.getLsbD target = true ∧
            (cc.setup.qualifier = 0 ∨
              ∃ i < 8, cc.setup.qualifier.getLsbD i = true ∧ hits.getLsbD i = true)))))) ∧
  (∀ (c : FrameContext) (number : BitVec 16) (hits : BitVec 8) (q : Sequencer) (trigger : Bool) (tgt : Target),
    c.target = some tgt →
    frameRecord c number hits q.reported trigger =
      { number := number, startTime := c.startTime, duration := c.duration, target := tgt
        opcode := match c.opcode with
          | some v => v
          | none => 0
        kind := match c.entry with
          | some e => e.kind
          | none => .unlisted
        addrBytes := match c.entry with
          | some e => e.addrBytes
          | none => .zero
        address := c.address, dataCount := c.dataCount, stored := c.stored, hits := hits
        stage := if q.state = .triggered then none else some q.stage
        trigger := trigger, truncated := c.truncated, residue := c.residue, excess := c.excess
        collision := c.collision, timeReset := c.timeReset, holdViolation := c.holdViolation })

/-- R32, R33, R34, R11, R151: what the end of a frame settles in its context. R11: the target is decided at the
frame's first pulse, and does not change after. -/
def Obligations.TargetAndAnomaliesSettled : Prop :=
  (∀ (ctx : FrameContext) (pending : Bool),
    ((ctx.closed pending).truncated = true ↔
      (∃ b a, ctx.decoding = .opcode b a) ∨ (∃ b a, ctx.decoding = .address b a) ∨
      (∃ p, ctx.decoding = .wait p) ∨ (∃ b a, ctx.decoding = .data b a ∧ ctx.dataCount = 0)) ∧
    ((ctx.closed pending).residue = true ↔ ∃ b a, ctx.decoding = .data b a ∧ b ≠ 0) ∧
    (ctx.closed pending).timeReset = pending ∧
    (ctx.closed pending).target = some (match ctx.target with
      | some t => t
      | none => .sel ctx.openingSelect) ∧
    (ctx.closed pending).excess = ctx.excess ∧ (ctx.closed pending).collision = ctx.collision ∧
    (ctx.closed pending).duration = ctx.duration ∧ (ctx.closed pending).stored = ctx.stored) ∧
  (∀ (ctx : FrameContext) (selects : BitVec 4),
    (∀ t, ctx.target = some t → ctx.decideTarget selects = ctx) ∧
    (ctx.target = none → (∃ i j : Fin 4, i ≠ j ∧ selects.getLsbD i.val = true ∧ selects.getLsbD j.val = true) →
      ctx.decideTarget selects = { ctx with target := some .multiple }) ∧
    (ctx.target = none →
      ¬(∃ i j : Fin 4, i ≠ j ∧ selects.getLsbD i.val = true ∧ selects.getLsbD j.val = true) →
      ctx.decideTarget selects = { ctx with target := some (.sel ctx.openingSelect) }))

/-- R1, R3, R6, R8: a transition of H_CLK outside IN FRAME changes the link's pins alone, and so does one IN FRAME back
to the copied idle level, or made with the clock away from it already. A transition IN FRAME away from the idle level
is one pulse, and each row that names what a pulse brings about is that same sampling edge where the pulse brings it
about, and has no effect elsewhere (log 5). The return of H_CLK is this row at the idle level (log 15). -/
def Obligations.SamplingEdgeIsTheNamedPulse : Prop :=
  ∀ (k : LinkLevels) (l : LinkLanes) (s : State),
    ((∀ ctx, s.tap.boundary ≠ .inFrame ctx) →
      exec (.samplingEdge k) s = .next { s with hClk := k.clock, lanes := k.lanes } ∧
      (∀ i ∈ [Instr.opcodeComplete l, .addressComplete l, .waitDone l, .dataByteComplete l, .trailPulse l,
        .opaquePulse l], exec i s = .next s)) ∧
    (∀ ctx, s.tap.boundary = .inFrame ctx →
      (k.clock = ctx.idleLevel ∨ s.hClk ≠ ctx.idleLevel →
        exec (.samplingEdge k) s = .next { s with hClk := k.clock, lanes := k.lanes }) ∧
      ∀ p ∈ [(PulseRow.opcodeDone, Instr.opcodeComplete l), (.addressDone, .addressComplete l),
        (.waitOver, .waitDone l), (.byteDone, .dataByteComplete l), (.trail, .trailPulse l),
        (.unlisted, .opaquePulse l)],
        exec p.2 s = if s.hClk = ctx.idleLevel ∧ ctx.nextPulse = p.1 then
            exec (.samplingEdge { clock := !ctx.idleLevel, lanes := l }) s
          else .next s)

/-- R8, R9, R24 to R27, R11: a pulse that completes nothing shifts its bits in, first-sent bit most significant,
or is counted in WAIT, and decides the target if it is the frame's first; nothing else changes but the link pins. A
pulse gives one bit, D0's, on one lane; two, D1 over D0, on two; four, D3 down to D0, on four, each as the host sees the
lane. -/
def Obligations.SamplingEdgeShiftsBitsIn : Prop :=
  (∀ (l : LinkLanes) (d : Fin 4 → Bool),
    (∀ p ∈ [((0 : Fin 4), l.d0), (1, l.d1), (2, l.d2), (3, l.d3)],
      p.2 = .host (d p.1) ∨ p.2 = .memory (d p.1) ∨ ∃ m, p.2 = .undriven (d p.1) m) →
    sampleBits 1 l = (d 0).toNat ∧ sampleBits 2 l = 2 * (d 1).toNat + (d 0).toNat ∧
    sampleBits 4 l = 8 * (d 3).toNat + 4 * (d 2).toNat + 2 * (d 1).toNat + (d 0).toNat) ∧
  (Width.one.bits = 1 ∧ Width.two.bits = 2 ∧ Width.four.bits = 4 ∧ OpcodeLanes.one.bits = 1 ∧
    OpcodeLanes.four.bits = 4) ∧
  ∀ (l : LinkLanes) (s : State) (ctx : FrameContext), s.tap.boundary = .inFrame ctx → s.hClk = ctx.idleLevel →
    (∀ bits acc, ctx.decoding = .opcode bits acc → bits + ctx.opcodeLanes.bits < 8 →
      exec (.samplingEdge { clock := !ctx.idleLevel, lanes := l }) s = .next
        { s with
          lanes := l, hClk := !ctx.idleLevel
          tap := s.tap.inFrame
            { ctx.decideTarget s.hSel with
              decoding := .opcode (bits + ctx.opcodeLanes.bits)
                ((acc <<< ctx.opcodeLanes.bits) ||| BitVec.ofNat 8 (sampleBits ctx.opcodeLanes.bits l)) } }) ∧
    (∀ bits acc e, ctx.decoding = .address bits acc → ctx.entry = some e →
      bits + e.addrWidth.bits < 8 * AddrBytes.toNat e.addrBytes →
      exec (.samplingEdge { clock := !ctx.idleLevel, lanes := l }) s = .next
        { s with
          lanes := l, hClk := !ctx.idleLevel
          tap := s.tap.inFrame
            { ctx.decideTarget s.hSel with
              decoding := .address (bits + e.addrWidth.bits)
                ((acc <<< e.addrWidth.bits) ||| BitVec.ofNat 32 (sampleBits e.addrWidth.bits l)) } }) ∧
    (∀ pulses e, ctx.decoding = .wait pulses → ctx.entry = some e → pulses + 1 < e.wait.val →
      exec (.samplingEdge { clock := !ctx.idleLevel, lanes := l }) s = .next
        { s with
          lanes := l, hClk := !ctx.idleLevel
          tap := s.tap.inFrame
            { ctx.decideTarget s.hSel with decoding := .wait (pulses + 1) } }) ∧
    (∀ bits acc e, ctx.decoding = .data bits acc → ctx.entry = some e → bits + e.dataWidth.bits < 8 →
      exec (.samplingEdge { clock := !ctx.idleLevel, lanes := l }) s = .next
        { s with
          lanes := l, hClk := !ctx.idleLevel
          tap := s.tap.inFrame
            { ctx.decideTarget s.hSel with
              decoding := .data (bits + e.dataWidth.bits)
                ((acc <<< e.dataWidth.bits) ||| BitVec.ofNat 8 (sampleBits e.dataWidth.bits l)) } })

/-- R9, R22, R23, R24, R34, R36, R47: the last opcode pulse records the opcode, copies the entry with that value
as the table stands (none: the frame is UNLISTED, in OPAQUE), and moves the decoder; a frame with no address
bytes reaches the point of the NONE slots there. In a table that holds no opcode value twice the entry found is the one
that some position holds with the value, and none is found where no position does. -/
def Obligations.OpcodeCompleteLooksUpTheEntry : Prop :=
  (∀ (t : OpcodeTable) (v : Byte), OpcodesUnique t →
    (∀ i e, t.get i = some e → e.opcode = v → t.lookup v = some e) ∧
    ((∀ i e, t.get i = some e → e.opcode ≠ v) → t.lookup v = none)) ∧
  ∀ (l : LinkLanes) (s base : State) (ctx : FrameContext) (bits : Nat) (acc v : Byte) (done : FrameContext),
    s.tap.boundary = .inFrame ctx → s.hClk = ctx.idleLevel →
    ctx.decoding = .opcode bits acc → 8 ≤ bits + ctx.opcodeLanes.bits →
    v = (acc <<< ctx.opcodeLanes.bits) ||| BitVec.ofNat 8 (sampleBits ctx.opcodeLanes.bits l) →
    done = { ctx.decideTarget s.hSel with
      opcode := some v, entry := s.opTable.lookup v
      decoding := match s.opTable.lookup v with
        | none => .unlisted
        | some e =>
          if e.addrBytes ≠ .zero then .address 0 0
          else if e.wait ≠ 0 then .wait 0
          else if e.direction ≠ .none then .data 0 0
          else .trail } →
    base = { s with lanes := l, hClk := !ctx.idleLevel, tap := s.tap.inFrame done } →
    ((∃ e, s.opTable.lookup v = some e ∧ e.addrBytes ≠ .zero) → exec (.opcodeComplete l) s = .next base) ∧
    (¬(∃ e, s.opTable.lookup v = some e ∧ e.addrBytes ≠ .zero) →
      exec (.opcodeComplete l) s = .next (settle s (evaluate (noneAt done) base)))

/-- R25, R23, R36, R47: the last address pulse records the address, moves the decoder, and is the point of the
NONE slots. -/
def Obligations.AddressCompleteRecordsTheAddress : Prop :=
  ∀ (l : LinkLanes) (s : State) (ctx : FrameContext) (bits : Nat) (acc : Word32) (e : OpcodeEntry)
    (done : FrameContext),
    s.tap.boundary = .inFrame ctx → s.hClk = ctx.idleLevel →
    ctx.decoding = .address bits acc → ctx.entry = some e →
    8 * AddrBytes.toNat e.addrBytes ≤ bits + e.addrWidth.bits →
    done = { ctx.decideTarget s.hSel with
      address := some ((acc <<< e.addrWidth.bits) ||| BitVec.ofNat 32 (sampleBits e.addrWidth.bits l))
      decoding := if e.wait ≠ 0 then .wait 0 else if e.direction ≠ .none then .data 0 0 else .trail } →
    exec (.addressComplete l) s = .next (settle s (evaluate (noneAt done)
      { s with lanes := l, hClk := !ctx.idleLevel, tap := s.tap.inFrame done }))

/-- R27, R28, R29, R36: the last pulse of a data byte counts the byte, keeps it within the store limit and places
it in the word being built; the fourth byte hands the word, with its address modulo 2^(8 x address bytes), to the
Match Unit and begins the next one. -/
def Obligations.DataByteCompleteBuildsTheWord : Prop :=
  ∀ (l : LinkLanes) (s : State) (ctx : FrameContext) (bits : Nat) (acc b : Byte) (e : OpcodeEntry)
    (done : FrameContext),
    s.tap.boundary = .inFrame ctx → s.hClk = ctx.idleLevel →
    ctx.decoding = .data bits acc → ctx.entry = some e →
    8 ≤ bits + e.dataWidth.bits →
    b = (acc <<< e.dataWidth.bits) ||| BitVec.ofNat 8 (sampleBits e.dataWidth.bits l) →
    done = { ctx.decideTarget s.hSel with
      decoding := .data 0 0, dataCount := satAdd Config.max32 ctx.dataCount 1
      stored := if ctx.stored.length < ctx.storeLimit then ctx.stored ++ [b] else ctx.stored
      word := ctx.word ++ [b] } →
    (ctx.word.length < 3 → exec (.dataByteComplete l) s = .next
      { s with lanes := l, hClk := !ctx.idleLevel, tap := s.tap.inFrame done }) ∧
    (∀ b0 b1 b2, ctx.word = [b0, b1, b2] → exec (.dataByteComplete l) s = .next (settle s (evaluate
      (wordAt done
        { value := b0 ++ b1 ++ b2 ++ b, first := ctx.firstWord, bytes := 4
          address := ctx.address.map fun a =>
            BitVec.ofNat 32 ((a + ctx.wordOffset).toNat % 2 ^ (8 * AddrBytes.toNat e.addrBytes)) })
      { s with
        lanes := l, hClk := !ctx.idleLevel
        tap := s.tap.inFrame
          { done with word := [], wordOffset := ctx.wordOffset + 4, firstWord := false } })))

/-- R23, R26, R30, R31: the last wait pulse leads to DATA or TRAIL; a pulse in TRAIL sets EXCESS; a pulse in
OPAQUE raises the data count; nothing else changes but the link pins. -/
def Obligations.WaitTrailAndOpaquePulses : Prop :=
  ∀ (l : LinkLanes) (s : State) (ctx : FrameContext), s.tap.boundary = .inFrame ctx → s.hClk = ctx.idleLevel →
    (∀ pulses e, ctx.decoding = .wait pulses → ctx.entry = some e → e.wait.val ≤ pulses + 1 →
      exec (.waitDone l) s = .next
        { s with
          lanes := l, hClk := !ctx.idleLevel
          tap := s.tap.inFrame
            { ctx.decideTarget s.hSel with
              decoding := if e.direction = .none then .trail else .data 0 0 } }) ∧
    (ctx.decoding = .trail → exec (.trailPulse l) s = .next
      { s with
        lanes := l, hClk := !ctx.idleLevel
        tap := s.tap.inFrame { ctx.decideTarget s.hSel with excess := true } }) ∧
    (ctx.decoding = .unlisted → exec (.opaquePulse l) s = .next
      { s with
        lanes := l, hClk := !ctx.idleLevel
        tap := s.tap.inFrame
          { ctx.decideTarget s.hSel with dataCount := satAdd Config.max32 ctx.dataCount 1 } })

/-- R180, R181, R183, R191: what a delivered frame adds to the live table. A numbered target adds to its own row, in
the cell of the frame's kind, in the order READ, WRITE, ERASE, CONTROL, STATUS, UNLISTED, each counter saturating;
MULTIPLE adds to no row; COLLISION adds to the collision counter. -/
def Obligations.TallyCountsDeliveredFrame : Prop :=
  ∀ (a : TallyTable) (ctx : FrameContext) (cell : Fin 6),
    cell = (match ctx.entry with
      | none => 5
      | some e => match e.kind with
        | .read => 0
        | .write => 1
        | .erase => 2
        | .control => 3
        | .status => 4
        | .unlisted => 5) →
    (a.count ctx).collisions = (if ctx.collision then min Config.max32 (a.collisions + 1) else a.collisions) ∧
    (ctx.target = some .multiple → (a.count ctx).rows = a.rows) ∧
    (∀ n : Fin 4, ctx.target = some (.sel n) →
      (∀ j : Fin 4, j ≠ n → (a.count ctx).rows.get j = a.rows.get j) ∧
      (∀ k : Fin 6, k ≠ cell →
        ((a.count ctx).rows.get n).cells.get k = (a.rows.get n).cells.get k) ∧
      ((a.count ctx).rows.get n).cells.get cell =
        { frames := min Config.max32 (((a.rows.get n).cells.get cell).frames + 1)
          bytes := min Config.max40 (((a.rows.get n).cells.get cell).bytes + ctx.dataCount) } ∧
      ((a.count ctx).rows.get n).truncated =
        (if ctx.truncated then min Config.max32 ((a.rows.get n).truncated + 1) else (a.rows.get n).truncated) ∧
      ((a.count ctx).rows.get n).residue =
        (if ctx.residue then min Config.max32 ((a.rows.get n).residue + 1) else (a.rows.get n).residue) ∧
      ((a.count ctx).rows.get n).excess =
        (if ctx.excess then min Config.max32 ((a.rows.get n).excess + 1) else (a.rows.get n).excess))

/-! ### Match slots -/

/-- R41: a word agrees with a value under M when every bit M holds as 1 is equal in both; a partial last word is
compared so, under the condition of R50: only if M selects no bit of an absent byte. A word that is not compared is
no evaluation point and leaves the slot's progress as it was. -/
def Obligations.WordAgreesUnderMask : Prop :=
  (∀ mask w v : Word32, agrees mask w v = true ↔
    ∀ i, mask.getLsbD i = true → w.getLsbD i = v.getLsbD i) ∧
  (∀ w v : Word32, agrees 0 w v = true ∧ (agrees 0xFFFFFFFF w v = true ↔ w = v)) ∧
  (∀ (b0 b1 b2 b3 : Byte) (v : Word32),
    agrees 0xFF000000 (b0 ++ b1 ++ b2 ++ b3) v = true ↔ b0 = v.extractLsb' 24 8) ∧
  (∀ (ctx : FrameContext) (w : DataWord) (f : Slot) (p : SlotProgress), f.condition = .word → f.scope = .any →
    f.frameMeets ctx = true → f.windowMeets w.address = true →
    (wordAt ctx w f p).2 = (f.compares w && agrees f.mask w.value f.v1)) ∧
  (∀ (ctx : FrameContext) (w : DataWord) (f : Slot) (p : SlotProgress), w.bytes ≤ 4 →
    (f.compares w = true ↔ ∀ i, i < 8 * (4 - w.bytes) → f.mask.getLsbD i = false) ∧
    (f.compares w = false → wordAt ctx w f p = (p, false)))

/-- R28, R33, R37, R39, R40, R42, R45, R47, R50 to R54: what the evaluation points ask, and what a hit brings. A frame
meets a slot's frame conditions, and an address its window, as said here; a NONE slot hits at its point on both, an
ANOMALY slot on the frame conditions and a flag of its set. At frame end a partial last word comes first, its absent
bytes 0, then the ANOMALY slots. At any point a slot that is done neither hits nor moves; a slot that hits is done,
its open pair dropped, and it joins the hit set. The group of slots that hit is handed to the sequencer; a frame that
is not evaluated gives none. The target of a frame is decided before any point. -/
def Obligations.SlotHitsAtMostOncePerFrame : Prop :=
  (∀ (ctx : FrameContext) (f : Slot) (p : SlotProgress) (kind : Nat) (target : Nat),
    kind = (match ctx.entry with
      | some e => e.kind.code
      | none => 5) →
    (∃ n : Fin 4, ctx.target = some (.sel n) ∧ target = n.val) ∨ (ctx.target = some .multiple ∧ target = 4) →
    (f.frameMeets ctx = true ↔
      f.enabled = true ∧ f.targets.getLsbD target = true ∧ f.kinds.getLsbD kind = true ∧
      (f.opcode = none ∨ ∃ v, f.opcode = some v ∧ ctx.opcode = some v)) ∧
    (∀ a : Option Word32, f.windowMeets a = true ↔
      f.window = none ∨
        ∃ low high x, f.window = some (low, high) ∧ a = some x ∧ low.toNat ≤ x.toNat ∧ x.toNat ≤ high.toNat) ∧
    (noneAt ctx f p).1 = p ∧
    ((noneAt ctx f p).2 = true ↔
      f.condition = .none ∧ f.frameMeets ctx = true ∧ f.windowMeets ctx.address = true) ∧
    (anomalyAt ctx f p).1 = p ∧
    ((anomalyAt ctx f p).2 = true ↔ f.condition = .anomaly ∧ f.frameMeets ctx = true ∧
      ((f.anomalies.getLsbD 0 = true ∧ ctx.truncated = true) ∨
        (f.anomalies.getLsbD 1 = true ∧ ctx.residue = true) ∨
        (f.anomalies.getLsbD 2 = true ∧ ctx.excess = true) ∨
        (f.anomalies.getLsbD 3 = true ∧ ctx.collision = true)))) ∧
  (∀ (ctx : FrameContext) (s : State),
    (∀ bits acc e (v : Word32), ctx.decoding = .data bits acc → ctx.entry = some e →
      (∃ b0, ctx.word = [b0] ∧ v = b0 ++ (0 : Byte) ++ (0 : Byte) ++ (0 : Byte)) ∨
      (∃ b0 b1, ctx.word = [b0, b1] ∧ v = b0 ++ b1 ++ (0 : Byte) ++ (0 : Byte)) ∨
      (∃ b0 b1 b2, ctx.word = [b0, b1, b2] ∧ v = b0 ++ b1 ++ b2 ++ (0 : Byte)) →
      matchFrameEnd ctx s = evaluate (anomalyAt ctx) (evaluate
        (wordAt ctx
          { value := v, first := ctx.firstWord, bytes := ctx.word.length
            address := ctx.address.map fun a =>
              BitVec.ofNat 32 ((a + ctx.wordOffset).toNat % 2 ^ (8 * AddrBytes.toNat e.addrBytes)) }) s)) ∧
    (ctx.word = [] ∨ (∀ bits acc, ctx.decoding ≠ .data bits acc) →
      matchFrameEnd ctx s = evaluate (anomalyAt ctx) s)) ∧
  (∀ (point : Slot → SlotProgress → SlotProgress × Bool) (s : State),
    (s.mu.eval = none → evaluate point s = s) ∧
    (∀ e, s.mu.eval = some e → evaluate point s =
      takeGroup e.start (e.group point) { s with mu := { s.mu with eval := some (e.after point) } })) ∧
  ∀ (e : Evaluation) (point : Slot → SlotProgress → SlotProgress × Bool) (i : Fin 8),
    ((e.progress.get i).done = true →
      (e.group point).getLsbD i.val = false ∧ (e.after point).progress.get i = e.progress.get i) ∧
    ((e.progress.get i).done = false →
      (e.group point).getLsbD i.val = (point (e.copy.get i) (e.progress.get i)).2 ∧
      (e.after point).progress.get i =
        (if (point (e.copy.get i) (e.progress.get i)).2 then
          { (point (e.copy.get i) (e.progress.get i)).1 with done := true, openPair := false }
        else (point (e.copy.get i) (e.progress.get i)).1)) ∧
    (e.after point).hits = e.hits ||| e.group point ∧ (e.after point).copy = e.copy ∧
    (e.after point).start = e.start

/-- R39, R40, R42, R48, R50: over the data words of a frame that meets its frame conditions, whole words and perhaps a
partial last one, a WORD slot hits exactly when some word (the first, under FIRST) agrees with V1 and has its address in
the window. A partial word agrees only if it is compared (WordAgreesUnderMask); a whole word always is. -/
def Obligations.WordSlotHitsOnAgreeingWord : Prop :=
  ∀ (ctx : FrameContext) (f : Slot) (ws tail : List DataWord), f.condition = .word →
    (∀ w ∈ ws, w.bytes = 4) → tail.length ≤ 1 → (∀ w ∈ tail, 1 ≤ w.bytes ∧ w.bytes ≤ 3) →
    (∀ w ∈ ws, f.compares w = true) ∧
    (f.scope = .any → (hitsAmong ctx f { done := false, words := 0, openPair := false } (ws ++ tail) = true ↔
      f.frameMeets ctx = true ∧
      ∃ w ∈ ws ++ tail, f.compares w = true ∧ agrees f.mask w.value f.v1 = true ∧
        f.windowMeets w.address = true)) ∧
    (f.scope = .first → (hitsAmong ctx f { done := false, words := 0, openPair := false } (ws ++ tail) = true ↔
      f.frameMeets ctx = true ∧
      ∃ w rest, ws ++ tail = w :: rest ∧ f.compares w = true ∧ agrees f.mask w.value f.v1 = true ∧
        f.windowMeets w.address = true))

/-- R39, R40, R42, R49, R50: over the data words of a frame that meets its frame conditions, whole words and perhaps a
partial last one, a PAIR slot hits exactly when two consecutive words (the first two, under FIRST) agree with V1 and V2,
the first in the window. A partial last word closes a pair if it is compared (WordAgreesUnderMask), and opens none. -/
def Obligations.PairSlotHitsOnConsecutiveWords : Prop :=
  ∀ (ctx : FrameContext) (f : Slot) (ws tail : List DataWord), f.condition = .pair →
    (∀ w ∈ ws, w.bytes = 4) → tail.length ≤ 1 → (∀ w ∈ tail, 1 ≤ w.bytes ∧ w.bytes ≤ 3) →
    (∀ w ∈ tail, ∀ p : SlotProgress, f.compares w = true → f.scope = .any ∨ p.words < 2 →
      (wordAt ctx w f p).1.openPair = false) ∧
    (f.scope = .any → (hitsAmong ctx f { done := false, words := 0, openPair := false } (ws ++ tail) = true ↔
      f.frameMeets ctx = true ∧
      ∃ i a b, (ws ++ tail)[i]? = some a ∧ (ws ++ tail)[i + 1]? = some b ∧ agrees f.mask a.value f.v1 = true ∧
        f.windowMeets a.address = true ∧ f.compares b = true ∧ agrees f.mask b.value f.v2 = true)) ∧
    (f.scope = .first → (hitsAmong ctx f { done := false, words := 0, openPair := false } (ws ++ tail) = true ↔
      f.frameMeets ctx = true ∧
      ∃ a b rest, ws ++ tail = a :: b :: rest ∧ agrees f.mask a.value f.v1 = true ∧
        f.windowMeets a.address = true ∧ f.compares b = true ∧ agrees f.mask b.value f.v2 = true))

/-! ### The Trigger Sequencer -/

/-- R64, R65: a group has no effect outside WATCHING, or from a frame that did not begin after the session start
point. Otherwise its hits are taken one by one: those in the restart set of the stage in force when it arrives,
then the rest, each in slot number order; so a group with a restart hit restarts before anything else. Whether a
frame began after the session start point is told by the model's own counts of frame starts (log 8). -/
def Obligations.GroupTakenRestartsFirst : Prop :=
  (∀ (start : Nat) (g : BitVec 8) (s : State), s.seq.state ≠ .watching ∨ start ≤ s.seq.sessionStart →
    takeGroup start g s = s) ∧
  (∀ (start : Nat) (g : BitVec 8) (s : State), s.seq.state = .watching → s.seq.sessionStart < start →
    ∃ order : List (Fin 9), takeGroup start g s = order.foldl (fun t h => takeHit h t) s ∧
      (∀ h : Fin 9, h ∈ order ↔ g.getLsbD h.val = true) ∧
      order.Pairwise (fun a b =>
        (s.seq.current.restart.getLsbD a.val = true ∧ s.seq.current.restart.getLsbD b.val = false) ∨
        (s.seq.current.restart.getLsbD a.val = s.seq.current.restart.getLsbD b.val ∧ a < b)) ∧
      ((∃ h : Fin 9, g.getLsbD h.val = true ∧ s.seq.current.restart.getLsbD h.val = true) →
        takeGroup start g s = order.tail.foldl (fun t h => takeHit h t) { s with seq := s.seq.enter 0 }))

/-- R64, R66, R67, R70: what one hit does, a slot 0 to 7 or X as 8. -/
def Obligations.HitActsByTheStageInForce : Prop :=
  ∀ (hit : Fin 9) (s : State),
    (s.seq.state ≠ .watching → takeHit hit s = s) ∧
    (s.seq.state = .watching → s.seq.current.restart.getLsbD hit.val = true →
      takeHit hit s = { s with seq := { s.seq with
        stage := 0, occ := 0
        timer := if (s.seq.stages.get 0).timeout = 0 then none else some 0 } }) ∧
    (s.seq.current.restart.getLsbD hit.val = false → s.seq.current.advance.getLsbD hit.val = false →
      takeHit hit s = s) ∧
    (s.seq.state = .watching → s.seq.current.restart.getLsbD hit.val = false →
      s.seq.current.advance.getLsbD hit.val = true →
      (s.seq.occ + 1 ≠ s.seq.current.required →
        takeHit hit s = { s with seq := { s.seq with occ := s.seq.occ + 1 } }) ∧
      (s.seq.occ + 1 = s.seq.current.required → ∀ k : Fin 4, k.val = s.seq.stage.val + 1 → k.val < s.seq.count →
        takeHit hit s = { s with seq := { s.seq with
          stage := k, occ := 0
          timer := if (s.seq.stages.get k).timeout = 0 then none else some 0 } }) ∧
      (s.seq.occ + 1 = s.seq.current.required → s.seq.count ≤ s.seq.stage.val + 1 →
        takeHit hit s = declareTrigger (.sequence hit) { s with seq := { s.seq with occ := s.seq.occ + 1 } }))

/-- R71, R70: an expiry raises STAGE_TIMEOUT first, then restarts, advances, or declares the trigger with source
TIMEOUT. That an expiry not due does not come about, and that one due stays due until its row, is the model's reading
(DEDUCED, log 7). -/
def Obligations.StageTimeoutActs : Prop :=
  ∀ (s : State),
    (s.seq.expired = false → exec .stageTimeout s = .next s) ∧
    (∀ ticks, s.seq.state = .watching → s.seq.timer = some ticks → s.seq.current.timeout ≤ ticks →
      (s.seq.current.action = .restart → exec .stageTimeout s = .next
        { raiseEvent (.stageTimeout s.seq.stage .restart) s with
          seq := { s.seq with
            stage := 0, occ := 0
            timer := if (s.seq.stages.get 0).timeout = 0 then none else some 0 } }) ∧
      (s.seq.current.action = .advance → ∀ k : Fin 4, k.val = s.seq.stage.val + 1 → k.val < s.seq.count →
        exec .stageTimeout s = .next
          { raiseEvent (.stageTimeout s.seq.stage .advance) s with
            seq := { s.seq with
              stage := k, occ := 0
              timer := if (s.seq.stages.get k).timeout = 0 then none else some 0 } }) ∧
      (s.seq.current.action = .advance → s.seq.count ≤ s.seq.stage.val + 1 →
        exec .stageTimeout s = .next
          (settle s (declareTrigger .timeout (raiseEvent (.stageTimeout s.seq.stage .advance) s)))))

/-- R74, R75, R91, R92, R97, R98, R107, R109, R153: a declaration counts the trigger, raises TRIGGERED, marks the member
frame in progress or, between frames of a STREAMING session, offers a MARKER, pulses XT, and moves the sequencer to
its post-trigger state. A MARKER that fits is appended, after the GAP of a pending loss run; one with no room is
counted nowhere and changes nothing more, but under the policy STOP the session completes FULL (the sequencer is then
IDLE, log 16). Between frames in PRETRIG the MARKER is offered, and the capture state moves
to POSTTRIG, or the session completes with COUNT where Q is 0 (the sequencer is then IDLE, log 16).
The record's name is the model's own (log 9). -/
def Obligations.TriggerDeclarationSteps : Prop :=
  ∀ (src : TriggerSource) (s r : State) (n : Nat) (q : Sequencer) (pulse : Option XtPulse)
    (cause : MarkerCause),
    s.seq.state = .watching → n = min 65535 (s.seq.trigCount + 1) →
    r = raiseEvent (.triggered src n) { s with seq := { s.seq with trigCount := n } } →
    q = (if s.cc.setup.mode = .stream ∧ s.cc.setup.repeating = true then
        { s.seq with
          trigCount := n, stage := 0, occ := 0
          timer := if (s.seq.stages.get 0).timeout = 0 then none else some 0 }
      else { s.seq with trigCount := n, state := .triggered, occ := 0, timer := none }) →
    pulse = (if s.tb.xtOut then
        some { ticks := 0, length := match s.tb.xtPulse with
          | none => s.tb.xtLen
          | some p => p.length }
      else s.tb.xtPulse) →
    cause = (match src with
      | .forced => .forced
      | .sequence _ => .sequence
      | .timeout => .timeout) →
    (∀ f, s.cc.current = some f → f.member = true →
      declareTrigger src s = { r with
        cc := { s.cc with current := some { f with pending := true } }
        tb := { s.tb with xtPulse := pulse }, seq := q }) ∧
    ((∀ f, s.cc.current = some f → f.member = false) → s.cc.state = .streaming → s.cc.loss = none →
      4 ≤ s.tm.free →
      declareTrigger src s = { r with
        cc := { s.cc with appended := satAdd Config.max32 s.cc.appended 1 }
        tm := { s.tm with
          trace := s.tm.trace ++
            [{ id := s.tm.nextId, record := .marker s.cc.nextFrame s.tb.time cause, pre := false }]
          nextId := s.tm.nextId + 1, free := s.tm.free - 4 }
        tb := { s.tb with xtPulse := pulse }, seq := q }) ∧
    (∀ run, (∀ f, s.cc.current = some f → f.member = false) → s.cc.state = .streaming → s.cc.loss = some run →
      8 ≤ s.tm.free →
      declareTrigger src s = { r with
        cc := { s.cc with loss := none, appended := min 4294967295 (s.cc.appended + 2) }
        tm := { s.tm with
          trace := s.tm.trace ++
            [{ id := s.tm.nextId, record := .gap run, pre := false },
             { id := s.tm.nextId + 1, record := .marker s.cc.nextFrame s.tb.time cause, pre := false }]
          nextId := s.tm.nextId + 2, free := s.tm.free - 8 }
        tb := { s.tb with xtPulse := pulse }, seq := q }) ∧
    ((∀ f, s.cc.current = some f → f.member = false) → s.cc.state = .streaming →
      s.tm.free < (if s.cc.loss = none then 4 else 8) →
      (s.cc.setup.policy ≠ .stop →
        declareTrigger src s = { r with tb := { s.tb with xtPulse := pulse }, seq := q }) ∧
      (∀ u, s.cc.setup.policy = .stop → u = completeSession .full r →
        declareTrigger src s = { u with tb := { u.tb with xtPulse := pulse } } ∧ u.seq.state = .idle)) ∧
    (∀ u v, (∀ f, s.cc.current = some f → f.member = false) → s.cc.state = .pretrig →
      u = (offer (.marker s.cc.nextFrame s.tb.time cause) false r).2 →
      (s.cc.setup.post = 0 → v = completeSession .count u →
        declareTrigger src s = { v with tb := { v.tb with xtPulse := pulse } } ∧ v.seq.state = .idle) ∧
      (s.cc.setup.post ≠ 0 →
        declareTrigger src s = { u with
          cc := { u.cc with state := .posttrig }
          tb := { u.tb with xtPulse := pulse }, seq := q }))

/-! ### Sessions and the trace -/

/-- R106, R94: in PRETRIG the records to go are the fewest oldest ones that hold a pre-trigger FRAME record, where
P requires it, and leave room for the offer; if the record at the mark is among them the offer is refused and
nothing changes, else they are discarded and the offer is appended, a pending GAP first (R97). While a mark is
held, an offer that needs any discard is refused. R94, R97, R104, R111: the cursor and the mark keep designating the
records they designate, and a cursor at a discarded record moves to the oldest one left; if it moves, one
CURSOR_SKIPPED with the number of records it was moved over is raised. The pre-trigger record count falls by the
pre-trigger records discarded and rises by the one appended, and each record appended is counted. That P reached
with no pre-trigger record held requires no discard is the model's reading (DEDUCED, log 24). -/
def Obligations.PretrigOfferDiscardsTheFewest : Prop :=
  ∀ (r : Record) (pre : Bool) (s : State) (k : Nat), TraceSound s → s.cc.state = .pretrig →
    r.units ≤ 36 → k ≤ s.tm.trace.length →
    offerUnits r s ≤ s.tm.free + unitsOf (s.tm.trace.take k) →
    (pre = true → s.cc.setup.depth ≤ s.cc.preCount → 1 ≤ preRecords s.tm.trace →
      1 ≤ preRecords (s.tm.trace.take k)) →
    (∀ j < k, s.tm.free + unitsOf (s.tm.trace.take j) < offerUnits r s ∨
      (pre = true ∧ s.cc.setup.depth ≤ s.cc.preCount ∧ 1 ≤ preRecords s.tm.trace ∧
        preRecords (s.tm.trace.take j) = 0)) →
    ((∃ m, s.ru.mark = some m ∧ m < k) → offer r pre s = (false, s)) ∧
    ((∀ m, s.ru.mark = some m → k ≤ m) → ∃ t, offer r pre s = (true, t) ∧
      ∃ gap new : List Held, t.tm.trace = s.tm.trace.drop k ++ gap ++ new ∧
        gap.map Held.record = (s.cc.loss.toList.map Record.gap) ∧ new.map Held.record = [r] ∧
        new.map Held.pre = [pre] ∧
        t.tm.free = s.tm.free + unitsOf (s.tm.trace.take k) - offerUnits r s ∧
        t.ru = { s.ru with cursor := s.ru.cursor - k, mark := s.ru.mark.map fun m => m - k } ∧
        t.sp = (if s.ru.cursor < k then (raiseEvent (.cursorSkipped (k - s.ru.cursor)) s).sp else s.sp) ∧
        t.cc = { s.cc with
          loss := none
          appended := min 4294967295 (s.cc.appended + (if s.cc.loss = none then 1 else 2))
          preCount := s.cc.preCount - preRecords (s.tm.trace.take k) + (if pre then 1 else 0) }) ∧
    (s.ru.mark ≠ none → 0 < k → offer r pre s = (false, s))

/-- R93, R95, R97, R98, R99, R105, R107, R108, R109, R110: in POSTTRIG and STREAMING an offer is granted exactly if it
fits, and a granted one appends the pending GAP and the record; in POSTTRIG it counts toward Q. A refused FRAME record
makes its frame lost, opening or extending the loss run, with RECORDS_LOST; under the policy STOP the session then
completes FULL. In PRETRIG the offer is decided first, a refused frame is lost, and the trigger frame then ends
PRETRIG. -/
def Obligations.FrameOffersAreDecided : Prop :=
  ∀ (r : FrameRecord) (trigger : Bool) (s lost : State),
    lost = raiseEvent (.recordsLost 1)
      { s with cc := { s.cc with
        lost := satAdd Config.max32 s.cc.lost 1
        loss := some (match s.cc.loss with
          | none => { number := r.number, startTime := r.startTime, count := 1 }
          | some run => { run with count := satAdd Config.max32 run.count 1 }) } } →
    (s.cc.state = .posttrig ∨ s.cc.state = .streaming →
      (∀ x, (offer x false s).1 = decide (offerUnits x s ≤ s.tm.free)) ∧
      (∀ x t, offer x false s = (true, t) →
        t.tm.trace.map Held.record = s.tm.trace.map Held.record ++ s.cc.loss.toList.map Record.gap ++ [x] ∧
        t.tm.free = s.tm.free - offerUnits x s ∧ t.cc.loss = none ∧ t.ru = s.ru ∧ t.sp = s.sp) ∧
      (s.tm.free < offerUnits (.frame r) s →
        offerFrame r trigger s =
          if s.cc.setup.policy = .stop then completeSession .full lost else lost)) ∧
    (∀ t, offer (.frame r) false s = (true, t) →
      (s.cc.state = .streaming → offerFrame r trigger s = t) ∧
      (∀ k u, s.cc.state = .posttrig → k = min 65535 (s.cc.postCount + 1) →
        u = { t with cc := { t.cc with postCount := k } } →
        offerFrame r trigger s = if k = s.cc.setup.post then completeSession .count u else u)) ∧
    (∀ v, s.cc.state = .pretrig →
      v = (if (offer (.frame r) (!trigger) s).1 = true then (offer (.frame r) (!trigger) s).2 else lost) →
      (trigger = false → offerFrame r trigger s = v) ∧
      (trigger = true → offerFrame r trigger s =
        if s.cc.setup.post = 0 then completeSession .count v
        else { v with cc := { v.cc with state := .posttrig } }))

/-- R99, R63, R110: a completion clears the current frame's membership and trigger-pending, appends the pending loss
run's GAP if 4 units are free and drops the run otherwise, sets COMPLETE with its cause, raises SESSION_COMPLETE
and returns the sequencer to IDLE.
The record's name is the model's own (log 9). -/
def Obligations.CompletionSteps : Prop :=
  ∀ (cause : Cause) (s : State), ∃ t, completeSession cause s = t ∧
    t.cc.state = .complete cause ∧ t.cc.loss = none ∧
    t.cc.current = s.cc.current.map (fun f => { f with member := false, pending := false }) ∧
    t.seq = { s.seq with state := .idle, stage := 0, occ := 0, timer := none } ∧
    t.sp = (raiseEvent (.sessionComplete cause) s).sp ∧
    t.ru = s.ru ∧ t.tb = s.tb ∧ t.mu = s.mu ∧ t.tap = s.tap ∧ t.tally = s.tally ∧
    (∀ run, s.cc.loss = some run → 4 ≤ s.tm.free →
      t.cc.appended = satAdd Config.max32 s.cc.appended 1 ∧
      t.tm = { s.tm with
        trace := s.tm.trace ++ [{ id := s.tm.nextId, record := .gap run, pre := false }]
        nextId := s.tm.nextId + 1, free := s.tm.free - 4 }) ∧
    (s.cc.loss = none ∨ s.tm.free < 4 → t.tm = s.tm ∧ t.cc.appended = s.cc.appended) ∧
    t.cc.seen = s.cc.seen ∧ t.cc.qualified = s.cc.qualified ∧ t.cc.lost = s.cc.lost ∧
    t.cc.nextFrame = s.cc.nextFrame

/-- R114, R115, R116, R136, R137: after a happening the watermark is judged if the unread count changed, and then
HOLD if the free units, the capture state or the hold-spent flag changed (log 17); what each judgement does. -/
def Obligations.JudgementsFollowWhatChanged : Prop :=
  (∀ s t : State,
    (s.unread = t.unread → s.tm.free = t.tm.free → s.cc.state = t.cc.state →
      s.tm.holdSpent = t.tm.holdSpent → settle s t = t) ∧
    (s.unread ≠ t.unread → s.tm.free = t.tm.free → s.cc.state = t.cc.state →
      s.tm.holdSpent = t.tm.holdSpent → settle s t = judgeWatermark t) ∧
    (s.unread = t.unread → (s.tm.free ≠ t.tm.free ∨ s.cc.state ≠ t.cc.state ∨ s.tm.holdSpent ≠ t.tm.holdSpent) →
      settle s t = judgeHold t) ∧
    (s.unread ≠ t.unread → (s.tm.free ≠ t.tm.free ∨ s.cc.state ≠ t.cc.state ∨ s.tm.holdSpent ≠ t.tm.holdSpent) →
      settle s t = judgeHold (judgeWatermark t))) ∧
  (∀ s : State,
    (s.ru.watermark = 0 → judgeWatermark s = s) ∧
    (s.ru.watermark ≠ 0 → s.ru.reached = false →
      judgeWatermark s = if s.unread < s.ru.watermark then s
        else raiseEvent (.watermark s.unread) { s with ru := { s.ru with reached := true } }) ∧
    (s.ru.watermark ≠ 0 → s.ru.reached = true →
      judgeWatermark s = if s.unread < s.ru.watermark then { s with ru := { s.ru with reached := false } }
        else s)) ∧
  (∀ (s : State) (hold : Bool),
    (hold = true ↔ (s.cc.state = .posttrig ∨ s.cc.state = .streaming) ∧ s.cc.setup.policy = .hold ∧
      s.tm.holdSpent = false) →
    (s.tm.episode = none →
      judgeHold s = if hold ∧ s.tm.free < 72 then
          raiseEvent (.holdOn s.tm.free)
            { s with tm := { s.tm with episode := some { ticks := 0, violated := false } } }
        else s) ∧
    (∀ e, s.tm.episode = some e →
      judgeHold s =
        if hold = false then
          raiseEvent (.holdOff .ended (min 16777215 e.ticks)) { s with tm := { s.tm with episode := none } }
        else if 144 ≤ s.tm.free then
          raiseEvent (.holdOff .space (min 16777215 e.ticks)) { s with tm := { s.tm with episode := none } }
        else s))

/-! ### Ticks and chain lines -/

/-- R15, R70, R115, R141, R142, R146, R153: a tick out of reset advances the timestamp, modulo 2^40, and every
counter that runs, up to its limit (log 7), and nothing else; no tick is given in reset.
The division is not counted (log 12). -/
def Obligations.TickAdvancesEveryCounter : Prop :=
  ∀ s : State,
    (s.inReset = true → exec .timebaseTick s = .next s) ∧
    (s.inReset = false → ∃ t, exec .timebaseTick s = .next t ∧
      t = { s with tap := t.tap, seq := t.seq, tm := t.tm, tb := t.tb } ∧
      t.tb = { s.tb with
        time := s.tb.time + 1, divider := 0, syncPulse := t.tb.syncPulse, xtPulse := t.tb.xtPulse } ∧
      (∀ n, s.tb.syncPulse = some n → n < 8 → t.tb.syncPulse = some (n + 1)) ∧
      (∀ n, s.tb.syncPulse = some n → 8 ≤ n → t.tb.syncPulse = some n) ∧
      (s.tb.syncPulse = none → t.tb.syncPulse = none) ∧
      (∀ p, s.tb.xtPulse = some p → p.ticks < p.length →
        t.tb.xtPulse = some { p with ticks := p.ticks + 1 }) ∧
      (∀ p, s.tb.xtPulse = some p → p.length ≤ p.ticks → t.tb.xtPulse = some p) ∧
      (s.tb.xtPulse = none → t.tb.xtPulse = none) ∧
      (∀ ctx, s.tap.boundary = .inFrame ctx →
        t.tap = s.tap.inFrame { ctx with duration := min 16777215 (ctx.duration + 1) }) ∧
      ((∀ ctx, s.tap.boundary ≠ .inFrame ctx) → t.tap = s.tap) ∧
      t.seq = { s.seq with timer := t.seq.timer } ∧
      (∀ n, s.seq.timer = some n → n < s.seq.current.timeout → t.seq.timer = some (n + 1)) ∧
      (∀ n, s.seq.timer = some n → s.seq.current.timeout ≤ n → t.seq.timer = some n) ∧
      (s.seq.timer = none → t.seq.timer = none) ∧
      t.tm = { s.tm with episode := t.tm.episode } ∧
      (∀ e, s.tm.episode = some e → (s.cc.setup.holdLimit = 0 → e.ticks < 16777215) →
        (s.cc.setup.holdLimit ≠ 0 → e.ticks < s.cc.setup.holdLimit) →
        t.tm.episode = some { e with ticks := e.ticks + 1 }) ∧
      (∀ e, s.tm.episode = some e →
        (s.cc.setup.holdLimit = 0 ∧ 16777215 ≤ e.ticks) ∨
          (s.cc.setup.holdLimit ≠ 0 ∧ s.cc.setup.holdLimit ≤ e.ticks) → t.tm.episode = some e) ∧
      (s.tm.episode = none → t.tm.episode = none))

/-- R117, R116, R146, R153: when an episode's timer has reached a hold limit that is not 0, HOLD_EXPIRED is raised,
hold-spent set and HOLD released with cause LIMIT. A SYNC pulse ends at 8 ticks and an XT pulse at the length it
began with, and the line is released. An expiry or an end that is not due does not come about (log 7). -/
def Obligations.LimitsReachedAct : Prop :=
  ∀ s : State,
    (∀ e, s.tm.episode = some e → s.cc.setup.holdLimit ≠ 0 → s.cc.setup.holdLimit ≤ e.ticks →
      exec .holdExpired s = .next
        (raiseEvent (.holdOff .limit (min 16777215 e.ticks))
          { raiseEvent (.holdExpired s.tm.free) s with
            tm := { s.tm with holdSpent := true, episode := none } })) ∧
    ((∀ e, s.tm.episode = some e → s.cc.setup.holdLimit = 0 ∨ e.ticks < s.cc.setup.holdLimit) →
      exec .holdExpired s = .next s) ∧
    (∀ n, s.tb.syncPulse = some n → 8 ≤ n →
      exec .syncPulseEnd s = .next { s with tb := { s.tb with syncPulse := none } }) ∧
    ((∀ n, s.tb.syncPulse = some n → n < 8) → exec .syncPulseEnd s = .next s) ∧
    (∀ p, s.tb.xtPulse = some p → p.length ≤ p.ticks →
      exec .xtPulseEnd s = .next { s with tb := { s.tb with xtPulse := none } }) ∧
    ((∀ p, s.tb.xtPulse = some p → p.ticks < p.length) → exec .xtPulseEnd s = .next s)

/-- R145, R148, R149, R85, R62: a FOLLOWER out of reset takes a SYNC edge: the timestamp is zeroed and the division
restarted, time-reset pending set, SYNC_SEEN raised with the low 32 bits of the old timestamp, and a session that
waits for SYNC started; any other role, and any monitor in reset, takes no edge. R68, R154: with XT input enabled,
out of reset and with no pulse of its own, the monitor takes an XT edge as an X hit; it takes no edge otherwise.
The count of frame starts is the model's own (log 8). -/
def Obligations.ChainEdgesAreTaken : Prop :=
  (∀ (s z : State), z = { s with tb := { s.tb with time := 0, divider := 0, timeReset := true } } →
    (s.inReset = true ∨ s.tb.role ≠ .follower → exec .syncEdge s = .next s) ∧
    (s.inReset = false → s.tb.role = .follower → s.cc.state ≠ .waitSync →
      exec .syncEdge s = .next (raiseEvent (.syncSeen (s.tb.time.setWidth 32)) z)) ∧
    (s.inReset = false → s.tb.role = .follower → s.cc.state = .waitSync →
      exec .syncEdge s = .next (settle s
        { raiseEvent (.syncSeen (s.tb.time.setWidth 32)) z with
          cc := { s.cc with state := if s.cc.setup.mode = .window then .pretrig else .streaming }
          seq := { s.seq with
            state := .watching, stage := 0, occ := 0
            timer := if (s.seq.stages.get 0).timeout = 0 then none else some 0
            sessionStart := s.tap.frameStarts } }))) ∧
  (∀ s : State,
    (s.inReset = false → s.tb.xtIn = true → s.tb.xtPulse = none →
      exec .xtEdge s = .next (settle s (takeHit 8 s))) ∧
    (s.inReset = true ∨ s.tb.xtIn = false ∨ s.tb.xtPulse ≠ none → exec .xtEdge s = .next s))

/-! ### Events -/

/-- R167, R192: RESTARTED and EVENTS_LOST are always enabled, and every other kind by the bit of the mask one below its
code. R168: an enabled event is placed in the queue by the first case that applies; one whose kind the mask excludes
is dropped (R167). Adding into the entry whose copy is in flight keeps the time of the first addition, for the
remainder of R172, in a field of the model's own (DEDUCED, log 19). -/
def Obligations.EventPlacedByFirstCase : Prop :=
  (∀ (e : Event) (mask : BitVec 13), e.enabled mask = match e with
    | .restarted _ => true
    | .triggered _ _ => mask.getLsbD 1
    | .sessionComplete _ => mask.getLsbD 2
    | .stageTimeout _ _ => mask.getLsbD 3
    | .holdOn _ => mask.getLsbD 4
    | .holdOff _ _ => mask.getLsbD 5
    | .holdExpired _ => mask.getLsbD 6
    | .holdViolation _ => mask.getLsbD 7
    | .recordsLost _ => mask.getLsbD 8
    | .cursorSkipped _ => mask.getLsbD 9
    | .watermark _ => mask.getLsbD 10
    | .syncSeen _ => mask.getLsbD 11
    | .eventsLost _ => true) ∧
  ∀ (e : Event) (s : State),
    (e.enabled s.sp.mask = false → raiseEvent e s = s) ∧
    (e.enabled s.sp.mask = true →
      (∀ n k time pre post, e = .recordsLost n →
        s.sp.queue = pre ++ { event := .recordsLost k, time := time } :: post →
        (∀ x ∈ pre, x.event.isRecordsLost = false) →
        raiseEvent e s = detailAdded s pre
          { event := .recordsLost (min 4294967295 (k + n)), time := time } post) ∧
      (∀ n k time pre post, e = .cursorSkipped n →
        s.sp.queue = pre ++ { event := .cursorSkipped k, time := time } :: post →
        (∀ x ∈ pre, x.event.isCursorSkipped = false) →
        raiseEvent e s = detailAdded s pre
          { event := .cursorSkipped (min 4294967295 (k + n)), time := time } post) ∧
      (e.isWatermark = true → (∃ x ∈ s.sp.queue, x.event.isWatermark = true) → raiseEvent e s = s) ∧
      (¬ownKindHeld e s.sp.queue →
        (∀ k time pre post, s.sp.queue = pre ++ { event := .eventsLost k, time := time } :: post →
          (∀ x ∈ pre, x.event.isEventsLost = false) →
          raiseEvent e s = detailAdded s pre
            { event := .eventsLost (min 4294967295 (k + 1)), time := time } post) ∧
        ((∀ x ∈ s.sp.queue, x.event.isEventsLost = false) →
          (s.sp.queue.length = 15 → raiseEvent e s = { s with sp := { s.sp with
            queue := s.sp.queue ++ [{ event := .eventsLost 1, time := s.tb.time }] } }) ∧
          (s.sp.queue.length < 15 → raiseEvent e s = { s with sp := { s.sp with
            queue := s.sp.queue ++ [{ event := e, time := s.tb.time }] } }))))

/-- The frame of the commands that end in a trigger, a completion, a loss or a judgement (R74, R98, R99, R111, R114,
R136): beside what they name here, they leave the pins, the configuration, the timebase's count and settings, the
tally and the service frame as they were (`Quiet`); a service command adds its reply. A pulse changes the frame
context and the evaluation, a frame's end closes both and is counted by the tally. -/
def Obligations.CommandsLeaveTheRest : Prop :=
  ∀ (i : Instr) (s t : State), exec i s = .next t →
    (i = .stageTimeout ∨ i = .holdExpired ∨ i = .xtEdge → Quiet s t) ∧
    ((i = .forceTrigger ∨ i = .stop ∨ i = .clearTrace ∨ i = .rewind ∨ i = .release ∨ ∃ n, i = .skipRecords n) →
      ∃ u, Quiet s u ∧ (t = u ∨ ∃ r, t = setReply r (lastByteOf i) u)) ∧
    (∀ n ctx, i = .selectNegated n → s.hSel = selectBit n → s.tap.boundary = .inFrame ctx →
      Quiet
        { s with
          hSel := 0
          tap := { s.tap with boundary := .idle }
          mu := { s.mu with eval := none }
          tally := s.tally.takeFrame (ctx.closed s.tb.timeReset) } t) ∧
    (∀ k, i = .samplingEdge k →
      Quiet
        { s with
          lanes := k.lanes, hClk := k.clock
          tap := { s.tap with boundary := t.tap.boundary }
          mu := { s.mu with eval := t.mu.eval } } t)

/-! ### The service port -/

/-- R157, R158, R161, R162: the rows of the service frame itself. A negation in the reply phase abandons the reply,
and what waits on its completion does not happen. A happening whose condition does not hold has no effect (log 4). A
whole ARGUMENT BYTE stands for the rest of its byte (log 29), and takes no command (log 6). R156, R158, R161 to R163,
R176: bit by bit, at the transitions of S_CLK. With S_SEL negated and in RESET no edge has an effect, and S_DO is
released. A rising edge takes a bit of S_DI, most significant first, and the eighth makes the byte; a byte of the
reply phase that begins before the reply is ready is pending, and the first that begins after it is the marker; it
begins at its first rising edge, so S_DO stays at the pending bit until then (DESIGN CHOICE, log 22). R193: a pending
byte is counted, and with the 16th the reply is ready, REPLY READY or not (log 22). A falling edge takes S_DO to the
next bit of the byte the phase calls for, which is spelled here: 0xFF, a pending 0x00, or the ready reply as marker,
status byte, length and payload. The rising edge that takes a command or completes the reply is that row's own (log
29). -/
def Obligations.ServiceFrameRows : Prop :=
  (∀ s : State,
    (s.sSel = true → exec .sSelAsserted s = .next s) ∧
    (s.sSel = false → s.sp.frame = .noFrame → exec .sSelAsserted s = .next
      { s with
        sSel := true
        sp := { s.sp with frame := .command [], bits := [], byteAt := none, out := true } }) ∧
    (s.sSel = false → s.sp.frame ≠ .noFrame → exec .sSelAsserted s = .next { s with sSel := true }) ∧
    (s.sSel = false → exec .sSelNegated s = .next s) ∧
    (s.sSel = true → s.sp.frame = .reset → exec .sSelNegated s = .next { s with sSel := false }) ∧
    (s.sSel = true → s.sp.frame = .reply → exec .sSelNegated s = .next
      { s with
        sSel := false
        sp := { s.sp with
          frame := .noFrame, reply := none, ready := false, inFlight := none, bits := [], byteAt := none
          pendingSent := 0 }
        ru := { s.ru with inFlight := none } }) ∧
    (s.sSel = true → s.sp.frame ≠ .reset → s.sp.frame ≠ .reply → exec .sSelNegated s = .next
      { s with
        sSel := false
        sp := { s.sp with frame := .noFrame, bits := [], byteAt := none, pendingSent := 0 } }) ∧
    (s.sp.frame = .reply → exec .replyReady s = .next { s with sp := { s.sp with ready := true } }) ∧
    (s.sp.frame ≠ .reply → exec .replyReady s = .next s) ∧
    (s.sp.frame = .reset ∨ s.sp.frame = .noFrame → s.sDo = .released ∧ s.sDoPin = none) ∧
    (s.sp.frame ≠ .reset → s.sp.frame ≠ .noFrame → s.sDoPin = some s.sp.out) ∧
    ((∃ bytes, s.sp.frame = .command bytes) ∨ s.sp.frame = .trailer ∨ s.sp.frame = .ignoring → s.sDo = .ones)) ∧
  (∀ (s : State) (b : Byte) (sent : List Bool),
    sent = [b.getLsbD 7, b.getLsbD 6, b.getLsbD 5, b.getLsbD 4, b.getLsbD 3, b.getLsbD 2, b.getLsbD 1,
      b.getLsbD 0] →
    (∀ n, s.sp.bits <+: sent → s.sp.frame = .command [] → commandArgs b = some n → 1 ≤ n →
      exec (.argumentByte (.byte b)) s = .next
        { s with
          sLine := { clock := true, data := b.getLsbD 0 }
          sp := { s.sp with frame := .command [b], bits := [] } }) ∧
    (∀ code args n, s.sp.bits <+: sent → s.sp.frame = .command (code :: args) → commandArgs code = some n →
      args.length + 1 < n → exec (.argumentByte (.byte b)) s = .next
        { s with
          sLine := { clock := true, data := b.getLsbD 0 }
          sp := { s.sp with frame := .command (code :: args ++ [b]), bits := [] } }) ∧
    (¬s.sp.bits <+: sent ∨ (∀ bytes, s.sp.frame ≠ .command bytes) ∨
      (s.sp.frame = .command [] ∧ (commandArgs b = none ∨ commandArgs b = some 0)) ∨
      (∃ code args n, s.sp.frame = .command (code :: args) ∧ commandArgs code = some n ∧ n ≤ args.length + 1) →
      exec (.argumentByte (.byte b)) s = .next s) ∧
    (∀ rest t, s.sp.out = true → s.sp.bits.length < 8 → s.sp.bits ++ rest = sent →
      exec (.argumentByte (.byte b)) s = .next t → t.sp.frame ≠ s.sp.frame →
      t = afterEdges (clockedBits rest) s) ∧
    (∀ k, s.sLine.clock = false → k.clock = true → (∃ bytes, s.sp.frame = .command bytes) →
      s.sp.bits ++ [k.data] = sent →
      exec (.argumentByte (.edge k)) s = exec (.argumentByte (.byte b)) s)) ∧
  (∀ (s : State) (k : ServiceLine),
    (s.sp.frame = .reset ∨ s.sp.frame = .noFrame ∨ k.clock = s.sLine.clock →
      exec (.argumentByte (.edge k)) s = .next { s with sLine := k }) ∧
    (s.sLine.clock = true → k.clock = false →
      ((∃ bytes, s.sp.frame = .command bytes) ∨ s.sp.frame = .trailer ∨ s.sp.frame = .ignoring →
        exec (.argumentByte (.edge k)) s = .next { s with sLine := k, sp := { s.sp with out := true } }) ∧
      (s.sp.frame = .reply → s.sp.byteAt = none →
        exec (.argumentByte (.edge k)) s = .next { s with sLine := k, sp := { s.sp with out := false } })) ∧
    (s.sLine.clock = false → k.clock = true →
      (∀ bytes, s.sp.frame = .command bytes → s.sp.bits.length < 7 →
        exec (.argumentByte (.edge k)) s = .next
          { s with sLine := k, sp := { s.sp with bits := s.sp.bits ++ [k.data] } }) ∧
      (s.sp.frame = .trailer ∨ s.sp.frame = .ignoring →
        exec (.argumentByte (.edge k)) s = .next { s with sLine := k }) ∧
      (s.sp.frame = .reply → s.sp.bits.length < 7 →
        (s.sp.bits = [] → s.sp.byteAt = none → s.sp.ready = true →
          exec (.argumentByte (.edge k)) s = .next
            { s with sLine := k, sp := { s.sp with bits := [k.data], byteAt := some 0 } }) ∧
        (s.sp.bits ≠ [] ∨ s.sp.byteAt ≠ none ∨ s.sp.ready = false →
          exec (.argumentByte (.edge k)) s = .next
            { s with sLine := k, sp := { s.sp with bits := s.sp.bits ++ [k.data] } })) ∧
      (s.sp.frame = .reply → s.sp.bits.length = 7 → s.sp.byteAt = none →
        (s.sp.pendingSent + 1 < 16 → exec (.argumentByte (.edge k)) s = .next
          { s with sLine := k, sp := { s.sp with bits := [], pendingSent := s.sp.pendingSent + 1 } }) ∧
        (16 ≤ s.sp.pendingSent + 1 → exec (.argumentByte (.edge k)) s = .next
          { s with
            sLine := k
            sp := { s.sp with bits := [], pendingSent := s.sp.pendingSent + 1, ready := true } })))) ∧
  (∀ (s : State) (r : Reply) (sent : List Byte), s.sp.frame = .reply → s.sp.reply = some r →
    sent = 0x5A ::
      (match r.status with
        | .ok => 0x00
        | .badCommand => 0x01
        | .badArg => 0x02
        | .locked => 0x03
        | .active => 0x04
        | .notActive => 0x05
        | .unread => 0x06
        | .notFound => 0x07
        | .tableFull => 0x08
        | .empty => 0x09
        | .markHeld => 0x0A
        | .noMark => 0x0B) :: beBytes 2 r.payload.length ++ r.payload →
    (s.sp.ready = false → s.sDo = .pendingBytes) ∧ (s.sp.ready = true → s.sDo = .sending sent) ∧
    (∀ k j b, s.sp.byteAt = some j → sent[j]? = some b →
      (s.sLine.clock = true → k.clock = false → s.sp.bits.length < 8 →
        exec (.argumentByte (.edge k)) s = .next
          { s with sLine := k, sp := { s.sp with out := b.getLsbD (7 - s.sp.bits.length) } }) ∧
      (s.sLine.clock = false → k.clock = true → s.sp.bits.length = 7 →
        (j + 1 < sent.length → exec (.argumentByte (.edge k)) s = .next
          { s with sLine := k, sp := { s.sp with bits := [], byteAt := some (j + 1) } }) ∧
        (j + 1 = sent.length → exec (.argumentByte (.edge k)) s = .next s))))

/-- R160: a code that names no command is taken at its code byte and answered BAD_COMMAND with an empty payload; it
changes nothing else, and the bytes after it are ignored: they collect nothing and take no command, whole or bit by bit.
The rule gives the reply and that nothing else changes. That the row carries the rest of its byte and leaves S_CLK and
S_DI as at its last bit, and that a whole ARGUMENT BYTE is nothing there, is the model's choice (DESIGN CHOICE, log 29);
that a row the port does not await has no effect is its reading (DEDUCED, log 6). -/
def Obligations.UnknownCodeIsBadCommand : Prop :=
  ∀ (code : Byte) (s : State), commandArgs code = none → s.sp.frame = .command [] →
    s.sp.bits <+: [code.getLsbD 7, code.getLsbD 6, code.getLsbD 5, code.getLsbD 4, code.getLsbD 3, code.getLsbD 2,
      code.getLsbD 1, code.getLsbD 0] →
    ∃ t, exec (.unknownCommand code) s = .next t ∧
      t = { s with
        sLine := { clock := true, data := code.getLsbD 0 }
        sp := { s.sp with
          frame := .reply, reply := some { status := .badCommand, payload := [] }, ready := false
          bits := [], byteAt := none, pendingSent := 0 } } ∧
      (∀ b, exec (.argumentByte (.byte b)) t = .next t) ∧
      (∀ ks : List ServiceLine, (afterEdges ks t).sp.frame = .reply ∧ (afterEdges ks t).sp.reply = t.sp.reply) ∧
      (∀ c b, c.serviceBytes = some b → exec c t = .next t)

/-- R156, R158, R159, R161: a service command is taken at its last byte, with every other byte of it received, at the
edge that samples that byte's last bit: its reply is placed, of a status and a payload of at most 288 bytes, and the
port is in REPLY with the reply not ready and no byte of it begun. R193: whatever is clocked from there, the marker is
at the latest the 17th byte, so it has begun by the 129th bit (held by a count, log 22). At any other moment its row
has no effect (log 6), nor where the bits clocked so far are not its last byte's (the row carries the rest of that
byte, log 29), and UNKNOWN COMMAND none but on an unknown code byte. -/
def Obligations.CommandTakenAtItsLastByte : Prop :=
  (∀ (i : Instr) (bytes : List Byte) (last : Byte) (bits : List Bool) (s : State), i.serviceBytes = some bytes →
    bytes.getLast? = some last →
    bits = [last.getLsbD 7, last.getLsbD 6, last.getLsbD 5, last.getLsbD 4, last.getLsbD 3, last.getLsbD 2,
      last.getLsbD 1, last.getLsbD 0] →
    (s.sp.frame ≠ .command bytes.dropLast ∨ ¬s.sp.bits <+: bits → exec i s = .next s) ∧
    (TraceSound s → s.sp.frame = .command bytes.dropLast → s.sp.bits <+: bits → ∃ t r, exec i s = .next t ∧
      t.sp.frame = .reply ∧ t.sp.reply = some r ∧ t.sp.ready = false ∧ r.payload.length ≤ 288 ∧
      t.sp.bits = [] ∧ t.sp.byteAt = none ∧ t.sp.pendingSent = 0 ∧ t.sp.out = s.sp.out ∧
      (∀ clocked : List Bool, 129 ≤ clocked.length → (afterEdges (clockedBits clocked) t).sp.byteAt ≠ none) ∧
      t.sLine = { clock := true, data := last.getLsbD 0 } ∧ t.sSel = s.sSel ∧ t.hSel = s.hSel ∧
      t.lanes = s.lanes ∧ t.hClk = s.hClk ∧ t.pending = s.pending)) ∧
  (∀ (code : Byte) (s : State), s.sp.frame ≠ .command [] ∨ commandArgs code ≠ none ∨
      ¬s.sp.bits <+: [code.getLsbD 7, code.getLsbD 6, code.getLsbD 5, code.getLsbD 4, code.getLsbD 3,
        code.getLsbD 2, code.getLsbD 1, code.getLsbD 0] →
    exec (.unknownCommand code) s = .next s)

/-- R165, R171, R173, R174, R189, R191, R192: STATUS, with its 33 bytes, NEXT EVENT, with its 10, SET EVENT MASK and SOFT
RESET. -/
def Obligations.ServicePortCommands : Prop :=
  ∀ s : State,
    (∀ p : List Byte,
      p = (match s.cc.state with
          | .idle => [0, 0]
          | .waitSync => [1, 0]
          | .pretrig => [2, 0]
          | .posttrig => [3, 0]
          | .streaming => [4, 0]
          | .complete .count => [5, 1]
          | .complete .full => [5, 2]
          | .complete .stopped => [5, 3]) ++
        [match s.seq.state with
          | .idle => 0
          | .watching => 1
          | .triggered => 2, byte s.seq.stage.val] ++ beBytes 2 s.seq.occ ++
        [byte ((if s.tm.episode = none then 0 else 1) + (if s.tm.holdSpent then 2 else 0) +
          (if s.ru.mark = none then 0 else 4) + (if s.tap.decodeEnable then 8 else 0))] ++
        beBytes 2 (s.tm.trace.length - s.ru.cursor) ++ beBytes 2 s.tm.trace.length ++ beBytes 2 s.tm.free ++
        beBytes 4 s.cc.seen ++ beBytes 4 s.cc.qualified ++ beBytes 4 s.cc.appended ++ beBytes 4 s.cc.lost ++
        beBytes 2 s.seq.trigCount ++ [byte s.sp.queue.length, match s.tb.role with
          | .alone => 0
          | .leader => 1
          | .follower => 2] →
      p.length = 33 ∧ (Received 0x01 [] s → Answers .status s { status := .ok, payload := p } s)) ∧
    (Received 0x02 [] s → s.sp.queue = [] → Answers .nextEvent s { status := .empty, payload := [] } s) ∧
    (∀ e rest code detail, Received 0x02 [] s → s.sp.queue = e :: rest →
      (code, detail) = ((match e.event with
        | .restarted .power => (1, [0, 0, 0, 0])
        | .restarted .pin => (1, [0, 0, 0, 1])
        | .restarted .soft => (1, [0, 0, 0, 2])
        | .triggered .forced n => (2, [0, 0xFF] ++ beBytes 2 n)
        | .triggered (.sequence h) n => (2, [1, byte h.val] ++ beBytes 2 n)
        | .triggered .timeout n => (2, [2, 0xFF] ++ beBytes 2 n)
        | .sessionComplete .count => (3, [0, 0, 0, 1])
        | .sessionComplete .full => (3, [0, 0, 0, 2])
        | .sessionComplete .stopped => (3, [0, 0, 0, 3])
        | .stageTimeout k .restart => (4, [0, 0, byte k.val, 0])
        | .stageTimeout k .advance => (4, [0, 0, byte k.val, 1])
        | .holdOn n => (5, beBytes 4 n)
        | .holdOff .space n => (6, 0 :: beBytes 3 n)
        | .holdOff .limit n => (6, 1 :: beBytes 3 n)
        | .holdOff .ended n => (6, 2 :: beBytes 3 n)
        | .holdExpired n => (7, beBytes 4 n)
        | .holdViolation k => (8, [0, 0, 0, byte k.val])
        | .recordsLost n => (9, beBytes 4 n)
        | .cursorSkipped n => (10, beBytes 4 n)
        | .watermark n => (11, beBytes 4 n)
        | .syncSeen low => (12, beBytes 4 low.toNat)
        | .eventsLost n => (13, beBytes 4 n)) : Byte × List Byte) →
      Answers .nextEvent s { status := .ok, payload := code :: beBytes 5 e.time.toNat ++ detail }
        { s with sp := { s.sp with inFlight := some { copied := e.event, addedAt := none } } }) ∧
    (∀ kinds : BitVec 16, Received 0x03 (beBytes 2 kinds.toNat) s →
      (8192 ≤ kinds.toNat → Answers (.setEventMask kinds) s
        { status := .badArg, payload := beBytes 2 s.sp.mask.toNat } s) ∧
      (kinds.toNat < 8192 → ∀ m : BitVec 13, m = kinds.setWidth 13 ||| 0b1000000000001 →
        Answers (.setEventMask kinds) s { status := .ok, payload := beBytes 2 m.toNat }
          { s with sp := { s.sp with mask := m } })) ∧
    (Received 0x04 [] s → Answers .softReset s { status := .ok, payload := [] }
      { s with
        seq := { s.seq with state := .idle, stage := 0, occ := 0, timer := none, trigCount := 0 }
        cc := { setup := s.cc.setup, state := .idle, nextFrame := 0, current := none, preCount := 0,
                postCount := 0, loss := none, seen := 0, qualified := 0, appended := 0, lost := 0 }
        tm := { trace := [], nextId := s.tm.nextId, free := 16384, episode := none, holdSpent := false }
        ru := { cursor := 0, mark := none, inFlight := none, watermark := s.ru.watermark, reached := false }
        tb := { s.tb with timeReset := false }
        sp := { s.sp with queue := [{ event := .restarted .soft, time := s.tb.time }], inFlight := none } })

/-- R112, R128, R156, R162, R163, R172: the completion of a ready reply, at the rising edge that samples its last bit,
which stands on S_DO there (the row stands for the rest of the reply, log 29). A read in flight at the cursor is
consumed, and freed where no mark is held (a mark designates the oldest record, Note after R112); a read in flight
elsewhere consumes nothing. An event in flight is removed, or keeps the remainder of its detail. Any other reply
changes the frame state alone. That an entry whose detail equals the copy is removed, even where a count was added at
the ceiling, and that the remainder takes the time the model kept, is the model's reading (DEDUCED, log 19). Records
are compared by the model's own names (log 9). That REPLY COMPLETE outside REPLY, or of a reply that is not ready, has
no effect is the model's reading (DEDUCED, log 4). -/
def Obligations.ReplyCompletionActs : Prop :=
  (∀ s : State, s.sp.frame ≠ .reply ∨ s.sp.ready = false → exec .replyComplete s = .next s) ∧
  ∀ (s : State) (r : Reply) (line : ServiceLine) (done : ServicePort), s.sp.reply = some r →
    line = { s.sLine with clock := true } →
    done = { s.sp with
      frame := .trailer, reply := none, ready := false, bits := [], byteAt := none, pendingSent := 0
      out := ((beBytes 2 r.payload.length ++ r.payload).getLastD 0).getLsbD 0 } →
    (s.sp.frame = .reply → s.sp.ready = true → s.sp.inFlight = none →
      (s.ru.inFlight = none → exec .replyComplete s = .next { s with sLine := line, sp := done }) ∧
      (∀ id, s.ru.inFlight = some id →
        ((∀ h, s.tm.trace[s.ru.cursor]? = some h → h.id ≠ id) →
          exec .replyComplete s = .next
            { s with sLine := line, ru := { s.ru with inFlight := none }, sp := done }) ∧
        (∀ h, s.tm.trace[s.ru.cursor]? = some h → h.id = id →
          (s.ru.mark = none → exec .replyComplete s = .next (settle s
            { s with
              sLine := line
              tm := { s.tm with
                trace := s.tm.trace.drop (s.ru.cursor + 1)
                free := s.tm.free + unitsOf (s.tm.trace.take (s.ru.cursor + 1)) }
              cc := { s.cc with
                preCount := s.cc.preCount - preRecords (s.tm.trace.take (s.ru.cursor + 1)) }
              ru := { s.ru with cursor := 0, inFlight := none }
              sp := done })) ∧
          (s.ru.mark = some 0 → exec .replyComplete s = .next (settle s
            { s with
              sLine := line, ru := { s.ru with cursor := s.ru.cursor + 1, inFlight := none }, sp := done }))))) ∧
    (∀ f e rest, s.sp.frame = .reply → s.sp.ready = true → s.ru.inFlight = none → s.sp.inFlight = some f →
      s.sp.queue = e :: rest →
      (e.event = f.copied →
        exec .replyComplete s = .next
          { s with sLine := line, sp := { done with queue := rest, inFlight := none } }) ∧
      (∀ k n time left, e.event ≠ f.copied → f.addedAt = some time →
        (e.event, f.copied, left) = (.recordsLost k, .recordsLost n, .recordsLost (k - n)) ∨
        (e.event, f.copied, left) = (.cursorSkipped k, .cursorSkipped n, .cursorSkipped (k - n)) ∨
        (e.event, f.copied, left) = (.eventsLost k, .eventsLost n, .eventsLost (k - n)) →
        exec .replyComplete s = .next
          { s with
            sLine := line
            sp := { done with queue := { event := left, time := time } :: rest, inFlight := none } }))

/-! ### The commands of the blocks -/

/-- R5, R7, R13: LINK CONTROL. KEEP, 0xFF, leaves a setting; decode enable off abandons a frame in progress, and
decode enable on leads to IDLE or SKIPPING by the selects. The payload reports the settings whatever the status. -/
def Obligations.LinkControlSetsTheTap : Prop :=
  ∀ (d i l : Byte) (s : State), Received 0x13 [d, i, l] s →
    (s.sessionActive = true → Answers (.linkControl d i l) s
      { status := .locked, payload := [onOffByte s.tap.decodeEnable, onOffByte s.tap.idleLevel,
          byte s.tap.opcodeLanes.code] } s) ∧
    (s.sessionActive = false →
      (d ≠ 0 ∧ d ≠ 1 ∧ d ≠ 0xFF) ∨ (i ≠ 0 ∧ i ≠ 1 ∧ i ≠ 0xFF) ∨ (l ≠ 1 ∧ l ≠ 4 ∧ l ≠ 0xFF) →
      Answers (.linkControl d i l) s
        { status := .badArg, payload := [onOffByte s.tap.decodeEnable, onOffByte s.tap.idleLevel,
            byte s.tap.opcodeLanes.code] } s) ∧
    (∀ (on idle : Bool) (lanes : OpcodeLanes), s.sessionActive = false →
      (d = 0xFF ∧ on = s.tap.decodeEnable) ∨ d = onOffByte on →
      (i = 0xFF ∧ idle = s.tap.idleLevel) ∨ i = onOffByte idle →
      (l = 0xFF ∧ lanes = s.tap.opcodeLanes) ∨ l = byte lanes.code →
      ∃ t, Answers (.linkControl d i l) s
        { status := .ok, payload := [onOffByte on, onOffByte idle, byte lanes.code] } t ∧
        (on = s.tap.decodeEnable →
          t = { s with tap := { s.tap with idleLevel := idle, opcodeLanes := lanes } }) ∧
        (on = true → s.tap.decodeEnable = false →
          t = { s with tap := { s.tap with
            boundary := if s.hSel = 0 then .idle else .skipping
            decodeEnable := true, idleLevel := idle, opcodeLanes := lanes } }) ∧
        (on = false → s.tap.decodeEnable = true →
          (∀ ctx, s.tap.boundary = .inFrame ctx →
            t = { s with
              tap := { s.tap with
                boundary := .off, decodeEnable := false, idleLevel := idle, opcodeLanes := lanes }
              mu := { s.mu with eval := none }
              cc := { s.cc with current := none } }) ∧
          ((∀ ctx, s.tap.boundary ≠ .inFrame ctx) →
            t = { s with tap := { s.tap with
              boundary := .off, decodeEnable := false, idleLevel := idle, opcodeLanes := lanes } })))

/-- R18 to R21: PUT, GET and DROP OPCODE ENTRY, over a table in which no opcode value stands twice. -/
def Obligations.OpcodeTableCommands : Prop :=
  ∀ s : State, OpcodesUnique s.opTable →
    (∀ a : OpcodeEntryArgs, Received 0x10 a.bytes s →
      (s.sessionActive = true → Answers (.putOpcodeEntry a) s { status := .locked, payload := [] } s) ∧
      (s.sessionActive = false → (∀ e, ¬OpcodeEntryArgs.spell a e) →
        Answers (.putOpcodeEntry a) s { status := .badArg, payload := [] } s) ∧
      (∀ e, s.sessionActive = false → OpcodeEntryArgs.spell a e →
        (∀ i old, s.opTable.get i = some old → old.opcode = e.opcode →
          Answers (.putOpcodeEntry a) s { status := .ok, payload := [byte i.val, 1] }
            { s with opTable := s.opTable.set i (some e) }) ∧
        ((∀ i old, s.opTable.get i = some old → old.opcode ≠ e.opcode) →
          (∀ i, s.opTable.get i = none → (∀ j < i, s.opTable.get j ≠ none) →
            Answers (.putOpcodeEntry a) s { status := .ok, payload := [byte i.val, 0] }
              { s with opTable := s.opTable.set i (some e) }) ∧
          ((∀ i, s.opTable.get i ≠ none) →
            Answers (.putOpcodeEntry a) s { status := .tableFull, payload := [] } s)))) ∧
    (∀ form v : Byte, Received 0x11 [form, v] s →
      (∀ i e, s.opTable.get i = some e → form = 0 ∧ e.opcode = v ∨ form = 1 ∧ v = byte i.val →
        Answers (.getOpcodeEntry form v) s
          { status := .ok, payload := [e.opcode, byte i.val, byte e.kind.code, byte (AddrBytes.toNat e.addrBytes),
              byte e.addrWidth.code, byte e.wait.val, byte e.direction.code, byte e.dataWidth.code] } s) ∧
      (form = 0 → (∀ i e, s.opTable.get i = some e → e.opcode ≠ v) →
        Answers (.getOpcodeEntry form v) s { status := .notFound, payload := [] } s) ∧
      (∀ i, form = 1 → v = byte i.val → s.opTable.get i = none →
        Answers (.getOpcodeEntry form v) s { status := .empty, payload := [] } s) ∧
      (form = 1 ∧ 32 ≤ v.toNat ∨ 2 ≤ form.toNat →
        Answers (.getOpcodeEntry form v) s { status := .badArg, payload := [] } s)) ∧
    (∀ v : Byte, Received 0x12 [v] s →
      (s.sessionActive = true → Answers (.dropOpcodeEntry v) s { status := .locked, payload := [] } s) ∧
      (∀ i e, s.sessionActive = false → s.opTable.get i = some e → e.opcode = v →
        Answers (.dropOpcodeEntry v) s { status := .ok, payload := [] }
          { s with opTable := s.opTable.set i none }) ∧
      (s.sessionActive = false → (∀ i e, s.opTable.get i = some e → e.opcode ≠ v) →
        Answers (.dropOpcodeEntry v) s { status := .notFound, payload := [] } s))

/-- R43, R58, R60, R79: PUT SLOT, PUT STAGE, PUT SEQUENCE and PUT CAPTURE SETUP replace every field together, where
no session is active, the number is in its range and every field among its values; else nothing changes. -/
def Obligations.ConfigurationWrites : Prop :=
  ∀ s : State,
    (∀ a : SlotArgs, Received 0x20 a.bytes s →
      (s.sessionActive = true → Answers (.putSlot a) s { status := .locked, payload := [] } s) ∧
      (s.sessionActive = false → 8 ≤ a.slot.toNat ∨ (∀ f, ¬SlotArgs.spell a f) →
        Answers (.putSlot a) s { status := .badArg, payload := [] } s) ∧
      (∀ (n : Fin 8) f, s.sessionActive = false → a.slot = byte n.val → SlotArgs.spell a f →
        Answers (.putSlot a) s { status := .ok, payload := [] }
          { s with mu := { s.mu with slots := s.mu.slots.set n f } })) ∧
    (∀ a : StageArgs, Received 0x28 a.bytes s →
      (s.sessionActive = true → Answers (.putStage a) s { status := .locked, payload := [] } s) ∧
      (s.sessionActive = false → 4 ≤ a.stage.toNat ∨ (∀ g, ¬StageArgs.spell a g) →
        Answers (.putStage a) s { status := .badArg, payload := [] } s) ∧
      (∀ (n : Fin 4) g, s.sessionActive = false → a.stage = byte n.val → StageArgs.spell a g →
        Answers (.putStage a) s { status := .ok, payload := [] }
          { s with seq := { s.seq with stages := s.seq.stages.set n g } })) ∧
    (∀ n : Byte, Received 0x2A [n] s →
      (s.sessionActive = true →
        Answers (.putSequence n) s { status := .locked, payload := [byte s.seq.count] } s) ∧
      (s.sessionActive = false → n.toNat < 1 ∨ 4 < n.toNat →
        Answers (.putSequence n) s { status := .badArg, payload := [byte s.seq.count] } s) ∧
      (s.sessionActive = false → 1 ≤ n.toNat → n.toNat ≤ 4 →
        Answers (.putSequence n) s { status := .ok, payload := [n] }
          { s with seq := { s.seq with count := n.toNat } })) ∧
    (∀ a : SetupArgs, Received 0x30 a.bytes s →
      (s.sessionActive = true → Answers (.putCaptureSetup a) s { status := .locked, payload := [] } s) ∧
      (s.sessionActive = false → (∀ c, ¬SetupArgs.spell a c) →
        Answers (.putCaptureSetup a) s { status := .badArg, payload := [] } s) ∧
      (∀ c, s.sessionActive = false → SetupArgs.spell a c →
        Answers (.putCaptureSetup a) s { status := .ok, payload := [] }
          { s with cc := { s.cc with setup := c } }))

/-- R44, R59, R80, R191: GET SLOT, GET STAGE and GET CAPTURE SETUP are accepted in every capture state, change
nothing and report the fields as they stand, in the layouts of 11.4; a number out of range is BAD_ARG. -/
def Obligations.ConfigurationReads : Prop :=
  ∀ s : State,
    (∀ n : Byte, Received 0x21 [n] s →
      (8 ≤ n.toNat → Answers (.getSlot n) s { status := .badArg, payload := [] } s) ∧
      (∀ (k : Fin 8) (f : Slot), n = byte k.val → f = s.mu.slots.get k →
        Answers (.getSlot n) s
          { status := .ok
            payload := [n, onOffByte f.enabled, f.targets.setWidth 8, f.kinds.setWidth 8] ++
              (match f.opcode with
                | some v => [0, v]
                | none => [1, 0]) ++
              (match f.window with
                | some (low, high) => [1] ++ beBytes 4 low.toNat ++ beBytes 4 high.toNat
                | none => List.replicate 9 0) ++
              [byte f.condition.code] ++ beBytes 4 f.v1.toNat ++ beBytes 4 f.v2.toNat ++ beBytes 4 f.mask.toNat ++
              [f.anomalies.setWidth 8, byte f.scope.code] } s)) ∧
    (∀ n : Byte, Received 0x29 [n] s →
      (4 ≤ n.toNat → Answers (.getStage n) s { status := .badArg, payload := [] } s) ∧
      (∀ (k : Fin 4) (g : Stage), n = byte k.val → g = s.seq.stages.get k →
        Answers (.getStage n) s
          { status := .ok
            payload := [n] ++ beBytes 2 g.advance.toNat ++ beBytes 2 g.required ++ beBytes 2 g.restart.toNat ++
              beBytes 3 g.timeout ++ [byte g.action.code, byte s.seq.count] } s)) ∧
    (∀ c : Setup, Received 0x31 [] s → c = s.cc.setup →
      Answers .getCaptureSetup s
        { status := .ok
          payload := [byte c.mode.code, onOffByte c.repeating] ++ beBytes 2 c.depth ++ beBytes 2 c.post ++
            beBytes 2 c.keep ++ [byte c.policy.code] ++ beBytes 4 c.holdLimit ++
            [c.filterKinds.setWidth 8, c.filterTargets.setWidth 8, c.qualifier, onOffByte c.anomaliesAlways] } s)

/-- R73, R62, R83 to R87, R122, R138, R146, R150: ARM, STOP, CLEAR TRACE and FORCE TRIGGER. ARM's conditions are
judged in the order of R83.
The count of frame starts is the model's own (log 8). -/
def Obligations.SessionCommands : Prop :=
  ∀ s : State,
    (∀ o p : Byte, Received 0x32 [o, p] s →
      (s.sessionActive = true →
        Answers (.arm o p) s { status := .active, payload := [byte s.cc.state.code] } s) ∧
      (s.sessionActive = false → 2 ≤ o.toNat ∨ 2 ≤ p.toNat ∨ (p = 1 ∧ s.tb.role ≠ .follower) →
        Answers (.arm o p) s { status := .badArg, payload := [byte s.cc.state.code] } s) ∧
      (s.sessionActive = false → o = 1 → p = 0 ∨ (p = 1 ∧ s.tb.role = .follower) →
        (s.ru.mark ≠ none →
          Answers (.arm o p) s { status := .markHeld, payload := [byte s.cc.state.code] } s) ∧
        (s.ru.mark = none → s.tm.trace ≠ [] →
          Answers (.arm o p) s { status := .unread, payload := [byte s.cc.state.code] } s)) ∧
      (∀ kept ready : State, s.sessionActive = false →
        (o = 0 ∧ kept = { s with
          tm := { s.tm with trace := [], free := 16384 }
          ru := { s.ru with cursor := 0, mark := none, reached := false } }) ∨
        (o = 1 ∧ s.ru.mark = none ∧ s.tm.trace = [] ∧ kept = s) →
        ready = { kept with
          cc := { s.cc with
            seen := 0, qualified := 0, appended := 0, lost := 0, nextFrame := 0, preCount := 0, postCount := 0
            loss := none
            current := s.cc.current.map fun f => { f with member := false, pending := false } }
          seq := { s.seq with trigCount := 0 }
          tm := { kept.tm with holdSpent := false }
          tb := { s.tb with timeReset := false } } →
        (p = 1 → s.tb.role = .follower →
          Answers (.arm o p) s { status := .ok, payload := [1] }
            (settle s { ready with cc := { ready.cc with state := .waitSync } })) ∧
        (p = 0 → ∀ st : CaptureState, st = (if s.cc.setup.mode = .window then .pretrig else .streaming) →
          Answers (.arm o p) s { status := .ok, payload := [byte st.code] }
            (settle s { ready with
              cc := { ready.cc with state := st }
              seq := { ready.seq with
                state := .watching, stage := 0, occ := 0
                timer := if (s.seq.stages.get 0).timeout = 0 then none else some 0
                sessionStart := s.tap.frameStarts }
              tb := if s.tb.role = .leader ∧ s.tb.syncAtArm = true ∧ s.tb.syncPulse = none then
                  { ready.tb with time := 0, divider := 0, timeReset := true, syncPulse := some 0 }
                else ready.tb })))) ∧
    (Received 0x33 [] s →
      (s.sessionActive = true → Answers .stop s { status := .ok, payload := [5] }
        (settle s (completeSession .stopped s))) ∧
      (s.sessionActive = false → Answers .stop s { status := .notActive, payload := [byte s.cc.state.code] } s)) ∧
    (Received 0x34 [] s →
      (∀ t, s.seq.state = .watching → t = settle s (declareTrigger .forced s) →
        Answers .forceTrigger s
          { status := .ok, payload := beBytes 2 (min 65535 (s.seq.trigCount + 1)) } t) ∧
      (s.seq.state ≠ .watching →
        Answers .forceTrigger s { status := .notActive, payload := beBytes 2 s.seq.trigCount } s)) ∧
    (Received 0x35 [] s →
      (s.sessionActive = true → Answers .clearTrace s { status := .active, payload := [] } s) ∧
      (s.sessionActive = false → Answers .clearTrace s { status := .ok, payload := [] }
        (settle s { s with
          tm := { s.tm with trace := [], free := 16384, holdSpent := false }
          ru := { s.ru with cursor := 0, mark := none, reached := false } })))

/-- R112, R127, R130 to R135, R188: the readout commands, and the bytes of each kind of record. A held mark designates
the oldest record (Note after R112, TraceSound), so it is 0 here. The read in flight is noted by the model's own name
of the record (log 9). -/
def Obligations.ReadoutCommands : Prop :=
  ∀ s : State,
    (s.tm.trace[s.ru.cursor]? = none →
      (Received 0x40 [] s → Answers .readRecord s { status := .empty, payload := [] } s) ∧
      (Received 0x41 [] s → Answers .peekRecord s { status := .empty, payload := [] } s)) ∧
    (∀ h bytes, s.tm.trace[s.ru.cursor]? = some h →
      bytes = (match h.record with
        | .frame r =>
          [1, byte (4 + (r.stored.length + 7) / 8)] ++ beBytes 2 r.number.toNat ++ beBytes 5 r.startTime.toNat ++
            beBytes 3 r.duration ++
            [match r.target with
              | .sel n => byte n.val
              | .multiple => 15,
             match r.kind with
              | .read => 0
              | .write => 1
              | .erase => 2
              | .control => 3
              | .status => 4
              | .unlisted => 5,
             r.opcode, r.hits,
             match r.stage with
              | some k => byte k.val
              | none => 4,
             0,
             byte ((if r.trigger then 1 else 0) + (if r.truncated then 2 else 0) + (if r.residue then 4 else 0) +
               (if r.excess then 8 else 0) + (if r.collision then 16 else 0) + (if r.timeReset then 32 else 0) +
               (if r.holdViolation then 64 else 0) + (if r.address = none then 0 else 128)),
             match r.addrBytes with
              | .zero => 0
              | .two => 2
              | .three => 3
              | .four => 4] ++
            (match r.address with
              | some a => beBytes 4 a.toNat
              | none => [0, 0, 0, 0]) ++
            beBytes 4 r.dataCount ++ beBytes 2 r.stored.length ++ [0, 0] ++ r.stored ++
            List.replicate ((r.stored.length + 7) / 8 * 8 - r.stored.length) 0
        | .gap run =>
          [2, 4] ++ beBytes 2 run.number.toNat ++ beBytes 5 run.startTime.toNat ++ List.replicate 15 0 ++
            beBytes 4 run.count ++ [0, 0, 0, 0]
        | .marker number time cause =>
          [3, 4] ++ beBytes 2 number.toNat ++ beBytes 5 time.toNat ++ [0, 0, 0, 0] ++
            [match cause with
              | .forced => 0
              | .sequence => 1
              | .timeout => 2] ++ List.replicate 18 0) →
      bytes.length = 8 * h.record.units ∧
      (Received 0x40 [] s → Answers .readRecord s { status := .ok, payload := bytes }
        { s with ru := { s.ru with inFlight := some h.id } }) ∧
      (Received 0x41 [] s → Answers .peekRecord s { status := .ok, payload := bytes } s)) ∧
    (∀ n : BitVec 16, Received 0x42 (beBytes 2 n.toNat) s →
      (n = 0 → Answers (.skipRecords n) s { status := .badArg, payload := [] } s) ∧
      (∀ k, n ≠ 0 → k = min n.toNat s.unread →
        (k = 0 → Answers (.skipRecords n) s { status := .ok, payload := [0, 0] } s) ∧
        (k ≠ 0 → s.ru.mark = none →
          Answers (.skipRecords n) s { status := .ok, payload := beBytes 2 k } (settle s
            { s with
              tm := { s.tm with
                trace := s.tm.trace.drop (s.ru.cursor + k)
                free := s.tm.free + unitsOf (s.tm.trace.take (s.ru.cursor + k)) }
              cc := { s.cc with preCount := s.cc.preCount - preRecords (s.tm.trace.take (s.ru.cursor + k)) }
              ru := { s.ru with cursor := 0 } })) ∧
        (s.ru.mark = some 0 →
          Answers (.skipRecords n) s { status := .ok, payload := beBytes 2 k } (settle s
            { s with ru := { s.ru with cursor := s.ru.cursor + k } })))) ∧
    (Received 0x43 [] s →
      (s.ru.mark ≠ none → Answers .mark s { status := .markHeld, payload := [] } s) ∧
      (s.ru.mark = none → s.unread = 0 → Answers .mark s { status := .empty, payload := [] } s) ∧
      (s.ru.mark = none → s.unread ≠ 0 → Answers .mark s { status := .ok, payload := [] }
        { s with ru := { s.ru with mark := some s.ru.cursor } })) ∧
    (Received 0x44 [] s →
      (s.ru.mark = none → Answers .rewind s { status := .noMark, payload := [] } s) ∧
      (s.ru.mark = some 0 → Answers .rewind s { status := .ok, payload := beBytes 2 s.ru.cursor }
        (settle s { s with ru := { s.ru with cursor := 0, mark := none } }))) ∧
    (Received 0x45 [] s →
      (s.ru.mark = none → Answers .release s { status := .noMark, payload := [] } s) ∧
      (s.ru.mark = some 0 → Answers .release s { status := .ok, payload := beBytes 2 s.ru.cursor }
        (settle s
          { s with
            tm := { s.tm with
              trace := s.tm.trace.drop s.ru.cursor
              free := s.tm.free + unitsOf (s.tm.trace.take s.ru.cursor) }
            cc := { s.cc with preCount := s.cc.preCount - preRecords (s.tm.trace.take s.ru.cursor) }
            ru := { s.ru with cursor := 0, mark := none } }))) ∧
    (∀ w : BitVec 16, Received 0x46 (beBytes 2 w.toNat) s →
      (4096 < w.toNat →
        Answers (.setWatermark w) s { status := .badArg, payload := beBytes 2 s.ru.watermark } s) ∧
      (w.toNat ≤ 4096 → Answers (.setWatermark w) s { status := .ok, payload := beBytes 2 w.toNat }
        { s with ru := { s.ru with
          watermark := w.toNat, reached := decide (w.toNat ≠ 0 ∧ w.toNat ≤ s.unread) } }))

/-- R143, R144, R146, R147: SET TIMEBASE, SYNC NOW and READ TIME. -/
def Obligations.TimebaseCommands : Prop :=
  ∀ s : State,
    (∀ (a : TimebaseArgs) (held : List Byte), Received 0x50 a.bytes s →
      held = beBytes 3 s.tb.prescale ++ [byte s.tb.role.code, onOffByte s.tb.syncAtArm, onOffByte s.tb.xtOut,
        byte s.tb.xtLen, onOffByte s.tb.xtIn] →
      (s.sessionActive = true → Answers (.setTimebase a) s { status := .locked, payload := held } s) ∧
      (s.sessionActive = false → ¬TimebaseArgs.allowed a →
        Answers (.setTimebase a) s { status := .badArg, payload := held } s) ∧
      (s.sessionActive = false → TimebaseArgs.allowed a →
        Answers (.setTimebase a) s { status := .ok, payload := a.bytes }
          { s with tb := { s.tb with
            prescale := a.prescale.toNat
            role := if a.role = 0 then .alone else if a.role = 1 then .leader else .follower
            syncAtArm := a.syncAtArm = 1, xtOut := a.xtOut = 1, xtLen := a.xtLen.toNat, xtIn := a.xtIn = 1
            divider := if a.prescale.toNat = s.tb.prescale then s.tb.divider else 0
            syncPulse := if a.role = 1 then s.tb.syncPulse else none
            xtPulse := if a.xtOut = 1 then s.tb.xtPulse else none } })) ∧
    (Received 0x51 [] s →
      (s.tb.role ≠ .leader → Answers .syncNow s { status := .badArg, payload := [] } s) ∧
      (s.tb.role = .leader → s.tb.syncPulse = none →
        Answers .syncNow s { status := .ok, payload := 1 :: beBytes 5 s.tb.time.toNat }
          { s with tb := { s.tb with time := 0, divider := 0, timeReset := true, syncPulse := some 0 } }) ∧
      (∀ n, s.tb.role = .leader → s.tb.syncPulse = some n →
        Answers .syncNow s { status := .ok, payload := 0 :: beBytes 5 s.tb.time.toNat } s)) ∧
    (Received 0x52 [] s → Answers .readTime s
      { status := .ok
        payload := beBytes 5 s.tb.time.toNat ++
          [byte ((if s.tb.syncPulse = none then 0 else 1) + (if s.tb.xtPulse = none then 0 else 2))] } s)

/-- R184, R185, R187: TALLY CONTROL, TALLY SNAPSHOT and READ TALLY. -/
def Obligations.TallyCommands : Prop :=
  ∀ s : State,
    (∀ c : Byte, Received 0x60 [c] s →
      (c ≠ 0 → c ≠ 1 → c ≠ 0xFF →
        Answers (.tallyControl c) s { status := .badArg, payload := [onOffByte s.tally.enable] } s) ∧
      (c = 0xFF → Answers (.tallyControl c) s { status := .ok, payload := [onOffByte s.tally.enable] } s) ∧
      (∀ on, c = onOffByte on → Answers (.tallyControl c) s { status := .ok, payload := [c] }
        { s with tally := { s.tally with enable := on } })) ∧
    (∀ c : Byte, Received 0x61 [c] s →
      (2 ≤ c.toNat → Answers (.tallySnapshot c) s { status := .badArg, payload := [] } s) ∧
      (c = 0 → Answers (.tallySnapshot c) s { status := .ok, payload := beBytes 5 s.tb.time.toNat }
        { s with tally := { s.tally with snap := s.tally.live, snapTime := s.tb.time } }) ∧
      (c = 1 → Answers (.tallySnapshot c) s { status := .ok, payload := beBytes 5 s.tb.time.toNat }
        { s with tally := { s.tally with
          snap := s.tally.live, snapTime := s.tb.time, live := TallyTable.zero } })) ∧
    (∀ row : Byte, Received 0x62 [row] s →
      (∀ (n : Fin 4) (r : TallyRow) (cell : Fin 6 → List Byte), row = byte n.val →
        r = s.tally.snap.rows.get n →
        (∀ k, cell k = beBytes 4 (r.cells.get k).frames ++ beBytes 5 (r.cells.get k).bytes) →
        Answers (.readTally row) s
          { status := .ok
            payload := row :: beBytes 5 s.tally.snapTime.toNat ++
              (cell 0 ++ cell 1 ++ cell 2 ++ cell 3 ++ cell 4 ++ cell 5) ++ beBytes 4 r.truncated ++
              beBytes 4 r.residue ++ beBytes 4 r.excess } s) ∧
      (row = 4 → Answers (.readTally row) s
        { status := .ok
          payload := 4 :: beBytes 5 s.tally.snapTime.toNat ++ beBytes 4 s.tally.snap.collisions } s) ∧
      (5 ≤ row.toNat → Answers (.readTally row) s { status := .badArg, payload := [] } s))
end

