-- ==== Sys2Proof/Laws/Arguments.lean ====
section
/-! SUPPORT. What each argument form accepts: one lemma per form, saying which bytes stand for which value. -/

namespace Sys2Proof.Machine
open Sys2Proof

theorem onOff?_some (b : Byte) (x) : onOff? b = some x ↔ b = onOffByte x := by
  revert b; cases x <;> decide

theorem width?_some (b : Byte) (x) : width? b = some x ↔ b = byte x.code := by revert b; cases x <;> decide

theorem direction?_some (b : Byte) (x) : direction? b = some x ↔ b = byte x.code := by revert b; cases x <;> decide

theorem addrBytes?_some (b : Byte) (x) : addrBytes? b = some x ↔ b = byte (AddrBytes.toNat x) := by revert b; cases x <;> decide

theorem entryKind?_some (b : Byte) (x) : entryKind? b = some x ↔ (x ≠ .unlisted ∧ b = byte x.code) := by revert b; cases x <;> decide

theorem condition?_some (b : Byte) (x) : condition? b = some x ↔ b = byte x.code := by revert b; cases x <;> decide

theorem scope?_some (b : Byte) (x) : scope? b = some x ↔ b = byte x.code := by revert b; cases x <;> decide

theorem action?_some (b : Byte) (x) : action? b = some x ↔ b = byte x.code := by revert b; cases x <;> decide

theorem mode?_some (b : Byte) (x) : mode? b = some x ↔ b = byte x.code := by revert b; cases x <;> decide

theorem policy?_some (b : Byte) (x) : policy? b = some x ↔ b = byte x.code := by revert b; cases x <;> decide

theorem role?_some (b : Byte) (x) : role? b = some x ↔ b = byte x.code := by revert b; cases x <;> decide

theorem index?_some {n} (hn : n ≤ 256) (b : Byte) (x : Fin n) : index? n b = some x ↔ b = byte x.val := by
  unfold index? byte
  have := x.isLt
  constructor
  · intro h; split at h
    · simp at h; subst h; simp
    · simp at h
  · rintro rfl; simp only [BitVec.toNat_ofNat]; rw [dif_pos (by omega)]; congr 1; ext; simp; omega

theorem wait?_some (b : Byte) (x : Fin 32) : wait? b = some x ↔ b = byte x.val := index?_some (by omega) b x

theorem set?_some {v w} (hw : w ≤ v) (b : BitVec v) (x : BitVec w) : set? w b = some x ↔ b = x.setWidth v := by
  unfold set?
  have hx := x.isLt
  have h2 : 2 ^ w ≤ 2 ^ v := Nat.pow_le_pow_right (by omega) hw
  constructor
  · intro h; split at h
    · simp at h; subst h; rename_i hh; apply BitVec.eq_of_toNat_eq; simp [BitVec.toNat_setWidth, Nat.mod_eq_of_lt hh]
    · simp at h
  · rintro rfl; rw [BitVec.toNat_setWidth, Nat.mod_eq_of_lt (by omega)]; simp [hx]

theorem option_bind_some {α β} (o : Option α) (f : α → Option β) (b) : (o >>= f) = some b ↔ ∃ a, o = some a ∧ f a = some b := by
  cases o <;> simp

theorem entry?_some (a e) : entry? a = some e ↔ OpcodeEntryArgs.spell a e := by
  obtain ⟨o, k, ab, aw, w, d, dw⟩ := e
  simp only [entry?, option_bind_some, entryKind?_some, addrBytes?_some, width?_some, wait?_some, direction?_some, OpcodeEntryArgs.spell, pure, Option.some.injEq, OpcodeEntry.mk.injEq]
  constructor
  · rintro ⟨_, h1, _, h2, _, h3, _, h4, _, h5, _, h6, rfl, rfl, rfl, rfl, rfl, rfl, rfl⟩; exact ⟨rfl, h1.1, h1.2, h2, h3, h4, h5, h6⟩
  · rintro ⟨rfl, h0, h1, h2, h3, h4, h5, h6⟩; exact ⟨_, ⟨h0, h1⟩, _, h2, _, h3, _, h4, _, h5, _, h6, rfl, rfl, rfl, rfl, rfl, rfl, rfl⟩

theorem opcodeCondition?_some (f v : Byte) (x) : opcodeCondition? f v = some x ↔ (f = 0 ∧ x = some v) ∨ (f = 1 ∧ x = none) := by
  unfold opcodeCondition?; split
  · have : f = 0 := by apply BitVec.eq_of_toNat_eq; simpa
    subst this; simp [eq_comm]
  · have : f = 1 := by apply BitVec.eq_of_toNat_eq; simpa
    subst this; simp [eq_comm]
  · rename_i h1 h2; simp; constructor
    · rintro rfl; simp at h1
    · rintro rfl; simp at h2

theorem window?_some (f : Byte) (l h) (x) : window? f l h = some x ↔ (f = 0 ∧ x = none) ∨ (f = 1 ∧ x = some (l, h)) := by
  unfold window?; split
  · have : f = 0 := by apply BitVec.eq_of_toNat_eq; simpa
    subst this; simp [eq_comm]
  · have : f = 1 := by apply BitVec.eq_of_toNat_eq; simpa
    subst this; simp [eq_comm]
  · rename_i h1 h2; simp; constructor
    · rintro rfl; simp at h1
    · rintro rfl; simp at h2

theorem slot?_some (a f) : slot? a = some f ↔ SlotArgs.spell a f := by
  have hE : slot? a = some f ↔ slotFields? a = some f ∧ f.allowed = true := by
    unfold slot?; cases h : slotFields? a with
    | none => simp
    | some g => simp; constructor
                · rintro ⟨h, rfl⟩; exact ⟨rfl, h⟩
                · rintro ⟨rfl, h⟩; exact ⟨h, rfl⟩
  rw [hE]; clear hE
  obtain ⟨en, t, k, o, w, c, v1, v2, m, an, sc⟩ := f
  simp only [slotFields?, option_bind_some, onOff?_some, set?_some (show 5 ≤ 8 by omega), set?_some (show 6 ≤ 8 by omega), set?_some (show 4 ≤ 8 by omega), opcodeCondition?_some, window?_some, condition?_some, scope?_some, SlotArgs.spell, pure, Option.some.injEq, Slot.mk.injEq, Slot.allowed]
  constructor
  · rintro ⟨⟨_, h1, _, h2, _, h3, _, h4, _, h5, _, h6, _, h7, _, h8, rfl, rfl, rfl, rfl, rfl, rfl, rfl, rfl, rfl, rfl, rfl⟩, hx⟩
    refine ⟨h1, h2, h3, h4, ?_, h6, rfl, rfl, rfl, h7, h8, ?_⟩
    · rcases h5 with ⟨h, rfl⟩ | ⟨h, rfl⟩
      · exact .inl ⟨h, rfl⟩
      · simp at hx; refine .inr ⟨h, rfl, hx.1, ?_⟩; intro h; simp [h] at hx
    · intro h; simp [h] at hx; exact hx.2.1
  · rintro ⟨h1, h2, h3, h4, h5, h6, rfl, rfl, rfl, h7, h8, h9⟩
    refine ⟨⟨_, h1, _, h2, _, h3, _, h4, w, ?_, _, h6, _, h7, _, h8, rfl, rfl, rfl, rfl, rfl, rfl, rfl, rfl, rfl, rfl, rfl⟩, ?_⟩
    · rcases h5 with h | h; exact .inl h; exact .inr ⟨h.1, h.2.1⟩
    · rcases h5 with ⟨_, rfl⟩ | ⟨_, rfl, hl, hc⟩
      · simp; by_cases hc : c = .anomaly; right; exact h9 hc; left; exact hc
      · simp [hl, hc]

theorem stage?_some (a g) : stage? a = some g ↔ StageArgs.spell a g := by
  obtain ⟨ad, r, rs, t, ac⟩ := g
  simp only [stage?, option_bind_some, set?_some (show 9 ≤ 16 by omega), action?_some, StageArgs.spell, pure]
  constructor
  · rintro ⟨_, h1, _, h2, _, h3, h4⟩
    split at h4
    · simp at h4
    · simp at h4; obtain ⟨rfl, rfl, rfl, rfl, rfl⟩ := h4
      rename_i hn; exact ⟨h2, h3, rfl, by by_contra hh; exact hn (BitVec.eq_of_toNat_eq (by simpa using hh)), rfl, h1⟩
  · rintro ⟨h2, h3, rfl, h4, rfl, h1⟩
    refine ⟨_, h1, _, h2, _, h3, ?_⟩
    rw [if_neg]; intro h; rw [h] at h4; simp at h4

theorem setup?_some (a c) : setup? a = some c ↔ SetupArgs.spell a c := by
  obtain ⟨m, rp, d, p, k, po, hl, fk, ft, q, aa⟩ := c
  simp only [setup?, option_bind_some, onOff?_some, mode?_some, policy?_some, set?_some (show 5 ≤ 8 by omega), set?_some (show 6 ≤ 8 by omega), SetupArgs.spell, pure]
  constructor
  · rintro ⟨_, h1, _, h2, _, h3, _, h4, _, h5, _, h6, h7⟩
    split at h7
    · simp at h7; obtain ⟨rfl, rfl, rfl, rfl, rfl, rfl, rfl, rfl, rfl, rfl, rfl⟩ := h7
      rename_i hh
      exact ⟨h1, h2, rfl, hh.1, rfl, rfl, hh.2.1, h3, rfl, hh.2.2, h5, h6, rfl, h4⟩
    · simp at h7
  · rintro ⟨h1, h2, rfl, h7, rfl, rfl, h8, h3, rfl, h9, h5, h6, rfl, h4⟩
    refine ⟨_, h1, _, h2, _, h3, _, h4, _, h5, _, h6, ?_⟩
    rw [if_pos ⟨h7, h8, h9⟩]

end Sys2Proof.Machine
end

