-- ==== Sys2Proof/Laws/Frame.lean ====
section
/-! SUPPORT. What the shared operations leave as it was. `Quiet s t` says once everything that events, records,
hits, triggers, losses, completions and the judgements after a happening can not change (Safety.lean); each
shared operation has one lemma. -/

namespace Sys2Proof.Machine
open Sys2Proof

theorem Quiet.refl (s : State) : Quiet s s := by constructor <;> rfl

theorem Quiet.trans {s t u : State} (h : Quiet s t) (k : Quiet t u) : Quiet s u := by
  constructor
  all_goals first
    | exact k.powered.trans h.powered | exact k.porActive.trans h.porActive
    | exact k.resetLow.trans h.resetLow | exact k.hSel.trans h.hSel | exact k.hClk.trans h.hClk
    | exact k.lanes.trans h.lanes | exact k.sSel.trans h.sSel | exact k.sLine.trans h.sLine | exact k.tap.trans h.tap
    | exact k.opTable.trans h.opTable | exact k.mu.trans h.mu | exact k.count.trans h.count
    | exact k.stages.trans h.stages | exact k.sessionStart.trans h.sessionStart
    | exact k.setup.trans h.setup | exact k.nextFrame.trans h.nextFrame
    | exact k.readInFlight.trans h.readInFlight | exact k.watermark.trans h.watermark
    | exact k.time.trans h.time | exact k.divider.trans h.divider | exact k.prescale.trans h.prescale
    | exact k.role.trans h.role | exact k.syncAtArm.trans h.syncAtArm | exact k.xtOut.trans h.xtOut
    | exact k.xtLen.trans h.xtLen | exact k.xtIn.trans h.xtIn | exact k.syncPulse.trans h.syncPulse
    | exact k.frame.trans h.frame | exact k.reply.trans h.reply | exact k.ready.trans h.ready
    | exact k.bits.trans h.bits | exact k.byteAt.trans h.byteAt | exact k.pendingSent.trans h.pendingSent | exact k.out.trans h.out
    | exact k.mask.trans h.mask | exact k.tally.trans h.tally | exact k.pending.trans h.pending

/-! ### The Service Port's queue operations -/

theorem place_frame (sp : ServicePort) (e : Event) (now : Time) :
    sp.place e now = { sp with queue := (sp.place e now).queue, inFlight := (sp.place e now).inFlight } := by
  have hq : ∀ x : Event,
      sp.enqueue x now = { sp with queue := (sp.enqueue x now).queue, inFlight := (sp.enqueue x now).inFlight } := by
    intro x
    unfold ServicePort.enqueue ServicePort.addInto
    split <;> [skip; split] <;> rfl
  unfold ServicePort.place
  cases e <;> simp only [ServicePort.addInto] <;> first | exact hq _ | (split <;> first | exact hq _ | rfl)

/-- Raising an event changes the queue and the event in flight, and nothing else. -/
theorem raiseEvent_eq (e : Event) (s : State) :
    ∃ q f, raiseEvent e s = { s with sp := { s.sp with queue := q, inFlight := f } } := by
  unfold raiseEvent
  split
  · exact ⟨_, _, congrArg (fun p => { s with sp := p }) (place_frame _ _ _)⟩
  · exact ⟨s.sp.queue, s.sp.inFlight, rfl⟩

theorem raiseEvent_quiet (e : Event) (s : State) : Quiet s (raiseEvent e s) := by
  obtain ⟨q, f, h⟩ := raiseEvent_eq e s
  rw [h]
  constructor <;> rfl

section
variable (e : Event) (s : State)
@[simp] theorem raiseEvent_powered : (raiseEvent e s).powered = s.powered := by unfold raiseEvent; split <;> rfl
@[simp] theorem raiseEvent_porActive : (raiseEvent e s).porActive = s.porActive := by unfold raiseEvent; split <;> rfl
@[simp] theorem raiseEvent_resetLow : (raiseEvent e s).resetLow = s.resetLow := by unfold raiseEvent; split <;> rfl
@[simp] theorem raiseEvent_hClk : (raiseEvent e s).hClk = s.hClk := by unfold raiseEvent; split <;> rfl
@[simp] theorem raiseEvent_lanes : (raiseEvent e s).lanes = s.lanes := by unfold raiseEvent; split <;> rfl
@[simp] theorem raiseEvent_sSel : (raiseEvent e s).sSel = s.sSel := by unfold raiseEvent; split <;> rfl
@[simp] theorem raiseEvent_sLine : (raiseEvent e s).sLine = s.sLine := by unfold raiseEvent; split <;> rfl
@[simp] theorem raiseEvent_sp_frame : (raiseEvent e s).sp.frame = s.sp.frame := (raiseEvent_quiet e s).frame
@[simp] theorem raiseEvent_sp_reply : (raiseEvent e s).sp.reply = s.sp.reply := (raiseEvent_quiet e s).reply
@[simp] theorem raiseEvent_sp_ready : (raiseEvent e s).sp.ready = s.sp.ready := (raiseEvent_quiet e s).ready
@[simp] theorem raiseEvent_sp_bits : (raiseEvent e s).sp.bits = s.sp.bits := (raiseEvent_quiet e s).bits
@[simp] theorem raiseEvent_sp_byteAt : (raiseEvent e s).sp.byteAt = s.sp.byteAt := (raiseEvent_quiet e s).byteAt
@[simp] theorem raiseEvent_sp_pendingSent : (raiseEvent e s).sp.pendingSent = s.sp.pendingSent :=
  (raiseEvent_quiet e s).pendingSent
@[simp] theorem raiseEvent_sp_out : (raiseEvent e s).sp.out = s.sp.out := (raiseEvent_quiet e s).out
@[simp] theorem raiseEvent_sp_mask : (raiseEvent e s).sp.mask = s.sp.mask := (raiseEvent_quiet e s).mask
@[simp] theorem raiseEvent_hSel : (raiseEvent e s).hSel = s.hSel := by unfold raiseEvent; split <;> rfl
@[simp] theorem raiseEvent_tap : (raiseEvent e s).tap = s.tap := by unfold raiseEvent; split <;> rfl
@[simp] theorem raiseEvent_opTable : (raiseEvent e s).opTable = s.opTable := by unfold raiseEvent; split <;> rfl
@[simp] theorem raiseEvent_mu : (raiseEvent e s).mu = s.mu := by unfold raiseEvent; split <;> rfl
@[simp] theorem raiseEvent_seq : (raiseEvent e s).seq = s.seq := by unfold raiseEvent; split <;> rfl
@[simp] theorem raiseEvent_cc : (raiseEvent e s).cc = s.cc := by unfold raiseEvent; split <;> rfl
@[simp] theorem raiseEvent_tm : (raiseEvent e s).tm = s.tm := by unfold raiseEvent; split <;> rfl
@[simp] theorem raiseEvent_ru : (raiseEvent e s).ru = s.ru := by unfold raiseEvent; split <;> rfl
@[simp] theorem raiseEvent_tb : (raiseEvent e s).tb = s.tb := by unfold raiseEvent; split <;> rfl
@[simp] theorem raiseEvent_tally : (raiseEvent e s).tally = s.tally := by unfold raiseEvent; split <;> rfl
@[simp] theorem raiseEvent_pending : (raiseEvent e s).pending = s.pending := by unfold raiseEvent; split <;> rfl
end

/-! ### The trace's operations -/

theorem removeOldest_quiet (k : Nat) (s : State) : Quiet s (removeOldest k s) := by
  constructor <;> rfl

theorem discardOldest_quiet (k : Nat) (s : State) : Quiet s (discardOldest k s) := by
  unfold discardOldest
  split
  · exact (removeOldest_quiet k s).trans (raiseEvent_quiet _ _)
  · exact removeOldest_quiet k s

theorem freeRead_quiet (s : State) : Quiet s (freeRead s) := removeOldest_quiet _ s

theorem appendRecord_quiet (r : Record) (pre : Bool) (s : State) : Quiet s (appendRecord r pre s) := by
  constructor <;> rfl

theorem emptyTrace_quiet (s : State) : Quiet s (emptyTrace s) := by constructor <;> rfl

theorem judgeWatermark_quiet (s : State) : Quiet s (judgeWatermark s) := by
  unfold judgeWatermark
  split
  · exact .refl s
  split
  · split
    · constructor <;> rfl
    · exact .refl s
  split
  · exact Quiet.trans (t := { s with ru := { s.ru with reached := true } }) (by constructor <;> rfl)
      (raiseEvent_quiet _ _)
  · exact .refl s

theorem assertHold_quiet (s : State) : Quiet s (assertHold s) :=
  Quiet.trans (t := { s with tm := { s.tm with episode := some { ticks := 0, violated := false } } })
    (by constructor <;> rfl) (raiseEvent_quiet _ _)

theorem releaseHold_quiet (c : HoldOffCause) (e : Episode) (s : State) : Quiet s (releaseHold c e s) :=
  Quiet.trans (t := { s with tm := { s.tm with episode := none } }) (by constructor <;> rfl)
    (raiseEvent_quiet _ _)

theorem judgeHold_quiet (s : State) : Quiet s (judgeHold s) := by
  unfold judgeHold
  split
  · split
    · exact assertHold_quiet s
    · exact .refl s
  · split
    · exact releaseHold_quiet _ _ s
    split
    · exact releaseHold_quiet _ _ s
    · exact .refl s

theorem settle_quiet (s t : State) : Quiet t (settle s t) := by
  unfold settle
  have h : Quiet t (if s.unread = t.unread then t else judgeWatermark t) := by
    split
    · exact .refl t
    · exact judgeWatermark_quiet t
  dsimp only
  generalize (if s.unread = t.unread then t else judgeWatermark t) = judged at h ⊢
  split
  · exact h
  · exact h.trans (judgeHold_quiet _)

theorem happening_quiet {f : State → State} {s : State} (h : Quiet s (f s)) : Quiet s (happening f s) :=
  h.trans (settle_quiet s (f s))

/-! ### Timebase, sequencer and capture operations -/

theorem pulseXt_quiet (s : State) : Quiet s (pulseXt s) := by
  unfold pulseXt
  split
  · split <;> (constructor <;> rfl)
  · exact .refl s

theorem appendGap_quiet (s : State) : Quiet s (appendGap s) := by
  unfold appendGap
  split
  · exact .refl s
  · constructor <;> rfl

theorem grantOffer_quiet (r : Record) (pre : Bool) (k : Nat) (s : State) : Quiet s (grantOffer r pre k s) := by
  unfold grantOffer
  have h : Quiet s (if k = 0 then s else discardOldest k s) := by
    split
    · exact .refl s
    · exact discardOldest_quiet k s
  have h2 := (h.trans (appendGap_quiet _)).trans (appendRecord_quiet r pre _)
  exact h2.trans (by constructor <;> rfl)

theorem offer_quiet (r : Record) (pre : Bool) (s : State) : Quiet s (offer r pre s).2 := by
  unfold offer
  split
  · exact grantOffer_quiet r pre _ s
  · exact .refl s

theorem loseFrame_quiet (n : BitVec 16) (time : Time) (s : State) : Quiet s (loseFrame n time s) := by
  unfold loseFrame
  refine Quiet.trans ?_ (raiseEvent_quiet _ _)
  constructor <;> rfl

theorem completionGap_quiet (s : State) : Quiet s (completionGap s) := by
  unfold completionGap
  split
  · exact appendGap_quiet s
  · constructor <;> rfl

theorem completeSession_quiet (c : Cause) (s : State) : Quiet s (completeSession c s) := by
  unfold completeSession
  have h1 : Quiet s { s with cc := s.cc.leaveFrame } := by constructor <;> rfl
  have h2 := h1.trans (completionGap_quiet _)
  dsimp only
  generalize completionGap _ = left at h2 ⊢
  have h3 : Quiet left { left with cc := { left.cc with state := .complete c } } := by constructor <;> rfl
  have h4 := h3.trans (raiseEvent_quiet (.sessionComplete c) _)
  have h5 := h2.trans h4
  exact h5.trans (by constructor <;> rfl)

theorem triggerPlaced_quiet (s : State) : Quiet s (triggerPlaced s) := by
  unfold triggerPlaced
  split
  · exact completeSession_quiet _ s
  · constructor <;> rfl

theorem refusedForRoom_quiet (s : State) : Quiet s (refusedForRoom s) := by
  unfold refusedForRoom
  split
  · exact completeSession_quiet _ s
  · exact .refl s

theorem countPost_quiet (s : State) : Quiet s (countPost s) := by
  unfold countPost
  have h : Quiet s { s with cc := { s.cc with postCount := satAdd Config.max16 s.cc.postCount 1 } } := by
    constructor <;> rfl
  dsimp only
  split
  · exact h.trans (completeSession_quiet _ _)
  · exact h

theorem offerFrame_quiet (r : FrameRecord) (trigger : Bool) (s : State) : Quiet s (offerFrame r trigger s) := by
  unfold offerFrame
  split
  · have h : Quiet s (if (offer (.frame r) (!trigger) s).1 then (offer (.frame r) (!trigger) s).2
        else loseFrame r.number r.startTime (offer (.frame r) (!trigger) s).2) := by
      split
      · exact offer_quiet _ _ s
      · exact (offer_quiet _ _ s).trans (loseFrame_quiet _ _ _)
    dsimp only
    split
    · exact h.trans (triggerPlaced_quiet _)
    · exact h
  · dsimp only
    split
    · exact (offer_quiet _ _ s).trans (countPost_quiet _)
    · exact ((offer_quiet _ _ s).trans (loseFrame_quiet _ _ _)).trans (refusedForRoom_quiet _)
  · dsimp only
    split
    · exact offer_quiet _ _ s
    · exact ((offer_quiet _ _ s).trans (loseFrame_quiet _ _ _)).trans (refusedForRoom_quiet _)
  · exact .refl s

theorem offerMarker_quiet (src : TriggerSource) (s : State) : Quiet s (offerMarker src s) := by
  unfold offerMarker
  dsimp only
  split
  · exact (offer_quiet _ _ s).trans (triggerPlaced_quiet _)
  · split
    · exact offer_quiet _ _ s
    · exact (offer_quiet _ _ s).trans (refusedForRoom_quiet _)
  · split
    · exact offer_quiet _ _ s
    · exact (offer_quiet _ _ s).trans (refusedForRoom_quiet _)
  · exact .refl s

theorem placeTrigger_quiet (src : TriggerSource) (s : State) : Quiet s (placeTrigger src s) := by
  unfold placeTrigger
  split
  · split
    · constructor <;> rfl
    · exact offerMarker_quiet src s
  · exact offerMarker_quiet src s

theorem postTrigger_quiet (s : State) : Quiet s (postTrigger s) := by
  unfold postTrigger
  split
  · exact .refl s
  split <;> (constructor <;> rfl)

theorem declareTrigger_quiet (src : TriggerSource) (s : State) : Quiet s (declareTrigger src s) := by
  unfold declareTrigger
  dsimp only
  refine Quiet.trans ?_ (postTrigger_quiet _)
  refine Quiet.trans ?_ (pulseXt_quiet _)
  refine Quiet.trans ?_ (placeTrigger_quiet _ _)
  refine Quiet.trans ?_ (raiseEvent_quiet _ _)
  constructor <;> rfl

theorem completeStage_quiet (src : TriggerSource) (s : State) : Quiet s (completeStage src s) := by
  unfold completeStage
  split
  · constructor <;> rfl
  · exact declareTrigger_quiet src s

theorem takeHit_quiet (hit : Fin 9) (s : State) : Quiet s (takeHit hit s) := by
  unfold takeHit
  split
  · split
    · constructor <;> rfl
    split
    · have h : Quiet s { s with seq := { s.seq with occ := s.seq.occ + 1 } } := by constructor <;> rfl
      dsimp only
      split
      · exact h.trans (completeStage_quiet _ _)
      · exact h
    · exact .refl s
  · exact .refl s

theorem takeHits_quiet (hits : List (Fin 9)) (s : State) : Quiet s (hits.foldl (fun t h => takeHit h t) s) := by
  induction hits generalizing s with
  | nil => exact .refl s
  | cons h rest ih => exact (takeHit_quiet h s).trans (ih _)

theorem takeGroup_quiet (start : Nat) (group : BitVec 8) (s : State) : Quiet s (takeGroup start group s) := by
  unfold takeGroup
  split
  · exact takeHits_quiet _ s
  · exact .refl s

theorem expireStage_quiet (s : State) : Quiet s (expireStage s) := by
  unfold expireStage
  dsimp only
  split
  · exact (raiseEvent_quiet _ s).trans (by constructor <;> rfl)
  · exact (raiseEvent_quiet _ s).trans (completeStage_quiet _ _)

theorem memberFrameEnd_quiet (ctx : FrameContext) (hits : BitVec 8) (f : CurrentFrame) (s : State) :
    Quiet s (memberFrameEnd ctx hits f s) := by
  unfold memberFrameEnd
  dsimp only
  split
  · refine Quiet.trans ?_ (offerFrame_quiet _ _ _)
    constructor <;> rfl
  · constructor <;> rfl

theorem captureFrameEnd_quiet (ctx : FrameContext) (hits : BitVec 8) (s : State) :
    Quiet s (captureFrameEnd ctx hits s) := by
  unfold captureFrameEnd
  dsimp only
  split
  · split
    · exact (memberFrameEnd_quiet ctx hits _ s).trans (by constructor <;> rfl)
    · constructor <;> rfl
  · constructor <;> rfl

/-! ### The Match Unit: an evaluation point changes, beside what is quiet, its own evaluation state alone -/

/-- A point's group is taken by the sequencer; the slots and everything quiet stay. -/
theorem evaluate_spec (point : Slot → SlotProgress → SlotProgress × Bool) (s : State) :
    evaluate point s = s ∨ ∃ e : Evaluation, s.mu.eval = some e ∧
      Quiet { s with mu := { s.mu with eval := some (e.after point) } } (evaluate point s) := by
  unfold evaluate
  split
  · exact .inl rfl
  · next e h => exact .inr ⟨e, h, takeGroup_quiet _ _ _⟩

end Sys2Proof.Machine
end

