-- ==== Sys2Proof/Laws/Judgements.lean ====
section
/-! SUPPORT. The judgements after a happening: the watermark (R136) and HOLD (R114) are sound after `settle`, and
the shared operations leave the watermark state and the hold episode to those judgements. -/

namespace Sys2Proof.Machine
open Sys2Proof

/-! ### Operations that do not touch the watermark state or the hold episode -/

def Unjudged (s t : State) : Prop := t.ru.reached = s.ru.reached ∧ t.tm.episode = s.tm.episode

theorem Unjudged.refl (s : State) : Unjudged s s := ⟨rfl, rfl⟩

theorem Unjudged.trans {s t u : State} (h : Unjudged s t) (k : Unjudged t u) : Unjudged s u :=
  ⟨k.1.trans h.1, k.2.trans h.2⟩

theorem raiseEvent_unjudged (e : Event) (s : State) : Unjudged s (raiseEvent e s) := by
  constructor <;> simp

theorem removeOldest_unjudged (k : Nat) (s : State) : Unjudged s (removeOldest k s) := by
  exact ⟨rfl, rfl⟩

theorem discardOldest_unjudged (k : Nat) (s : State) : Unjudged s (discardOldest k s) := by
  unfold discardOldest
  split
  · exact (removeOldest_unjudged k s).trans (raiseEvent_unjudged _ _)
  · exact removeOldest_unjudged k s

theorem freeRead_unjudged (s : State) : Unjudged s (freeRead s) := removeOldest_unjudged _ s

theorem appendRecord_unjudged (r : Record) (pre : Bool) (s : State) : Unjudged s (appendRecord r pre s) := by
  exact ⟨rfl, rfl⟩

/-! ### Timebase, sequencer and capture operations -/

theorem pulseXt_unjudged (s : State) : Unjudged s (pulseXt s) := by
  unfold pulseXt
  split
  · split <;> (exact ⟨rfl, rfl⟩)
  · exact .refl s

theorem appendGap_unjudged (s : State) : Unjudged s (appendGap s) := by
  unfold appendGap
  split <;> exact ⟨rfl, rfl⟩

theorem grantOffer_unjudged (r : Record) (pre : Bool) (k : Nat) (s : State) : Unjudged s (grantOffer r pre k s) := by
  unfold grantOffer
  have h : Unjudged s (if k = 0 then s else discardOldest k s) := by
    split
    · exact .refl s
    · exact discardOldest_unjudged k s
  have h2 := (h.trans (appendGap_unjudged _)).trans (appendRecord_unjudged r pre _)
  exact h2.trans (by exact ⟨rfl, rfl⟩)

theorem offer_unjudged (r : Record) (pre : Bool) (s : State) : Unjudged s (offer r pre s).2 := by
  unfold offer
  split
  · exact grantOffer_unjudged r pre _ s
  · exact .refl s

theorem loseFrame_unjudged (n : BitVec 16) (time : Time) (s : State) : Unjudged s (loseFrame n time s) := by
  unfold loseFrame
  refine Unjudged.trans ?_ (raiseEvent_unjudged _ _)
  exact ⟨rfl, rfl⟩

theorem completionGap_unjudged (s : State) : Unjudged s (completionGap s) := by
  unfold completionGap
  split
  · exact appendGap_unjudged s
  · exact ⟨rfl, rfl⟩

theorem completeSession_unjudged (c : Cause) (s : State) : Unjudged s (completeSession c s) := by
  unfold completeSession
  have h1 : Unjudged s { s with cc := s.cc.leaveFrame } := by exact ⟨rfl, rfl⟩
  have h2 := h1.trans (completionGap_unjudged _)
  dsimp only
  generalize completionGap _ = left at h2 ⊢
  have h3 : Unjudged left { left with cc := { left.cc with state := .complete c } } := by exact ⟨rfl, rfl⟩
  have h4 := h3.trans (raiseEvent_unjudged (.sessionComplete c) _)
  have h5 := h2.trans h4
  exact h5.trans (by exact ⟨rfl, rfl⟩)

theorem triggerPlaced_unjudged (s : State) : Unjudged s (triggerPlaced s) := by
  unfold triggerPlaced
  split
  · exact completeSession_unjudged _ s
  · exact ⟨rfl, rfl⟩

theorem refusedForRoom_unjudged (s : State) : Unjudged s (refusedForRoom s) := by
  unfold refusedForRoom
  split
  · exact completeSession_unjudged _ s
  · exact .refl s

theorem countPost_unjudged (s : State) : Unjudged s (countPost s) := by
  unfold countPost
  have h : Unjudged s { s with cc := { s.cc with postCount := satAdd Config.max16 s.cc.postCount 1 } } := by
    exact ⟨rfl, rfl⟩
  dsimp only
  split
  · exact h.trans (completeSession_unjudged _ _)
  · exact h

theorem offerFrame_unjudged (r : FrameRecord) (trigger : Bool) (s : State) : Unjudged s (offerFrame r trigger s) := by
  unfold offerFrame
  split
  · have h : Unjudged s (if (offer (.frame r) (!trigger) s).1 then (offer (.frame r) (!trigger) s).2
        else loseFrame r.number r.startTime (offer (.frame r) (!trigger) s).2) := by
      split
      · exact offer_unjudged _ _ s
      · exact (offer_unjudged _ _ s).trans (loseFrame_unjudged _ _ _)
    dsimp only
    split
    · exact h.trans (triggerPlaced_unjudged _)
    · exact h
  · dsimp only
    split
    · exact (offer_unjudged _ _ s).trans (countPost_unjudged _)
    · exact ((offer_unjudged _ _ s).trans (loseFrame_unjudged _ _ _)).trans (refusedForRoom_unjudged _)
  · dsimp only
    split
    · exact offer_unjudged _ _ s
    · exact ((offer_unjudged _ _ s).trans (loseFrame_unjudged _ _ _)).trans (refusedForRoom_unjudged _)
  · exact .refl s

theorem offerMarker_unjudged (src : TriggerSource) (s : State) : Unjudged s (offerMarker src s) := by
  unfold offerMarker
  dsimp only
  split
  · exact (offer_unjudged _ _ s).trans (triggerPlaced_unjudged _)
  · split
    · exact offer_unjudged _ _ s
    · exact (offer_unjudged _ _ s).trans (refusedForRoom_unjudged _)
  · split
    · exact offer_unjudged _ _ s
    · exact (offer_unjudged _ _ s).trans (refusedForRoom_unjudged _)
  · exact .refl s

theorem placeTrigger_unjudged (src : TriggerSource) (s : State) : Unjudged s (placeTrigger src s) := by
  unfold placeTrigger
  split
  · split
    · exact ⟨rfl, rfl⟩
    · exact offerMarker_unjudged src s
  · exact offerMarker_unjudged src s

theorem postTrigger_unjudged (s : State) : Unjudged s (postTrigger s) := by
  unfold postTrigger
  split
  · exact .refl s
  split <;> (exact ⟨rfl, rfl⟩)

theorem declareTrigger_unjudged (src : TriggerSource) (s : State) : Unjudged s (declareTrigger src s) := by
  unfold declareTrigger
  dsimp only
  refine Unjudged.trans ?_ (postTrigger_unjudged _)
  refine Unjudged.trans ?_ (pulseXt_unjudged _)
  refine Unjudged.trans ?_ (placeTrigger_unjudged _ _)
  refine Unjudged.trans ?_ (raiseEvent_unjudged _ _)
  exact ⟨rfl, rfl⟩

theorem completeStage_unjudged (src : TriggerSource) (s : State) : Unjudged s (completeStage src s) := by
  unfold completeStage
  split
  · exact ⟨rfl, rfl⟩
  · exact declareTrigger_unjudged src s

theorem takeHit_unjudged (hit : Fin 9) (s : State) : Unjudged s (takeHit hit s) := by
  unfold takeHit
  split
  · split
    · exact ⟨rfl, rfl⟩
    split
    · have h : Unjudged s { s with seq := { s.seq with occ := s.seq.occ + 1 } } := by exact ⟨rfl, rfl⟩
      dsimp only
      split
      · exact h.trans (completeStage_unjudged _ _)
      · exact h
    · exact .refl s
  · exact .refl s

theorem takeHits_unjudged (hits : List (Fin 9)) (s : State) : Unjudged s (hits.foldl (fun t h => takeHit h t) s) := by
  induction hits generalizing s with
  | nil => exact .refl s
  | cons h rest ih => exact (takeHit_unjudged h s).trans (ih _)

theorem takeGroup_unjudged (start : Nat) (group : BitVec 8) (s : State) : Unjudged s (takeGroup start group s) := by
  unfold takeGroup
  split
  · exact takeHits_unjudged _ s
  · exact .refl s

theorem expireStage_unjudged (s : State) : Unjudged s (expireStage s) := by
  unfold expireStage
  dsimp only
  split
  · exact (raiseEvent_unjudged _ s).trans (by exact ⟨rfl, rfl⟩)
  · exact (raiseEvent_unjudged _ s).trans (completeStage_unjudged _ _)

theorem memberFrameEnd_unjudged (ctx : FrameContext) (hits : BitVec 8) (f : CurrentFrame) (s : State) :
    Unjudged s (memberFrameEnd ctx hits f s) := by
  unfold memberFrameEnd
  dsimp only
  split
  · refine Unjudged.trans ?_ (offerFrame_unjudged _ _ _)
    exact ⟨rfl, rfl⟩
  · exact ⟨rfl, rfl⟩

theorem captureFrameEnd_unjudged (ctx : FrameContext) (hits : BitVec 8) (s : State) :
    Unjudged s (captureFrameEnd ctx hits s) := by
  unfold captureFrameEnd
  dsimp only
  split
  · split
    · exact (memberFrameEnd_unjudged ctx hits _ s).trans (by exact ⟨rfl, rfl⟩)
    · exact ⟨rfl, rfl⟩
  · exact ⟨rfl, rfl⟩

theorem evaluate_unjudged (point : Slot → SlotProgress → SlotProgress × Bool) (s : State) :
    Unjudged s (evaluate point s) := by
  unfold evaluate
  split
  · exact .refl s
  · next e h => exact takeGroup_unjudged e.start (e.group point) _

/-! ### The watermark (R136) -/

/-- Whatever the state before, a judgement leaves HOLD sound (R114). -/
theorem judgeHold_holdSound (t : State) : HoldSound (judgeHold t) := by
  unfold judgeHold
  split
  · next he =>
    split
    · next h =>
      simp only [Bool.and_eq_true, decide_eq_true_eq] at h
      unfold HoldSound assertHold
      refine ⟨fun _ => ?_, fun hn => ?_⟩
      · simp only [holdConditions, raiseEvent_cc, raiseEvent_tm] at h ⊢
        have h2 := h.2
        simp only [Config.holdOnBelow, Config.holdOffFrom] at h2 ⊢
        exact ⟨h.1, by omega⟩
      · simp at hn
    · next h =>
      simp only [Bool.and_eq_true, decide_eq_true_eq] at h
      exact ⟨fun hs => by simp [he] at hs, fun _ => h⟩
  · next e he =>
    split
    · next h =>
      unfold HoldSound releaseHold
      refine ⟨fun hs => by simp at hs, fun _ hc => ?_⟩
      simp only [holdConditions, raiseEvent_cc, raiseEvent_tm] at h hc
      simp [hc.1] at h
    · next h =>
      split
      · next hf =>
        unfold HoldSound releaseHold
        refine ⟨fun hs => by simp at hs, fun _ hc => ?_⟩
        have h2 := hc.2
        simp only [raiseEvent_tm, Config.holdOnBelow, Config.holdOffFrom] at h2 hf
        omega
      · next hf =>
        refine ⟨fun _ => ⟨by simpa using h, by omega⟩, fun hn => by simp [he] at hn⟩

/-- HOLD is sound after a happening that leaves the episode to the judgement (R114). -/
theorem settle_holdSound {s t : State} (h : HoldSound s) (hp : t.cc.setup.policy = s.cc.setup.policy)
    (he : t.tm.episode.isSome = s.tm.episode.isSome) : HoldSound (settle s t) := by
  have hw : ∀ u : State, (judgeWatermark u).tm = u.tm ∧ (judgeWatermark u).cc = u.cc := by
    intro u
    unfold judgeWatermark
    split <;> [skip; split] <;> [skip; split; split] <;> simp
  unfold settle
  dsimp only
  split
  · next hsame =>
    have hj : (if s.unread = t.unread then t else judgeWatermark t).tm = t.tm ∧
        (if s.unread = t.unread then t else judgeWatermark t).cc = t.cc := by
      split
      · exact ⟨rfl, rfl⟩
      · exact hw t
    obtain ⟨f1, f2, f3⟩ := hsame
    have hcond : holdConditions (if s.unread = t.unread then t else judgeWatermark t) = holdConditions s := by
      unfold holdConditions
      rw [hj.1, hj.2, hp, f2, f3]
    unfold HoldSound at h ⊢
    rw [hcond, hj.1, he, ← f1]
    refine ⟨h.1, fun hn => h.2 ?_⟩
    cases hs : s.tm.episode with
    | none => rfl
    | some e => rw [hs, hn] at he; cases he
  · exact judgeHold_holdSound _

theorem judgeHold_readout (t : State) : (judgeHold t).ru = t.ru ∧ (judgeHold t).tm.trace = t.tm.trace := by
  unfold judgeHold assertHold releaseHold
  split
  · split <;> simp
  · split <;> [skip; split] <;> simp

theorem watermarkSound_of_eq {s t : State} (h1 : t.ru = s.ru) (h2 : t.tm.trace = s.tm.trace)
    (h : WatermarkSound s) : WatermarkSound t := by
  unfold WatermarkSound State.unread at h ⊢
  rwa [h1, h2]

/-- A judgement leaves the watermark state sound, if it is BELOW with W at 0 (R135, R136). -/
theorem judgeWatermark_sound {t : State} (h0 : t.ru.watermark = 0 → t.ru.reached = false) :
    WatermarkSound (judgeWatermark t) := by
  unfold judgeWatermark
  split
  · next hw =>
    unfold WatermarkSound
    simp [h0 hw, hw]
  next hw =>
  split
  · next hr =>
    split
    · next hlt =>
      unfold WatermarkSound
      show false = true ↔ t.ru.watermark ≠ 0 ∧ t.ru.watermark ≤ t.unread
      simp
      omega
    · unfold WatermarkSound
      simp only [hr, true_iff]
      exact ⟨hw, by omega⟩
  · next hr =>
    split
    · next hle =>
      unfold WatermarkSound State.unread
      simp only [raiseEvent_ru, raiseEvent_tm, true_iff]
      exact ⟨hw, hle⟩
    · next hle =>
      unfold WatermarkSound
      simp [hr, hle]

/-- The watermark state is sound after a happening that keeps W and leaves the state to the judgement, or empties
the trace and sets it to BELOW (R136, R138). -/
theorem settle_watermarkSound {s t : State} (h : WatermarkSound s) (hw : t.ru.watermark = s.ru.watermark)
    (hr : t.ru.reached = s.ru.reached ∨ (t.ru.reached = false ∧ t.unread = 0)) :
    WatermarkSound (settle s t) := by
  have hj : WatermarkSound (if s.unread = t.unread then t else judgeWatermark t) := by
    split
    · next hu =>
      rcases hr with hr | ⟨hr, h0⟩
      · unfold WatermarkSound at h ⊢
        rwa [hr, hw, ← hu]
      · unfold WatermarkSound
        rw [hr, h0]
        simp
    · apply judgeWatermark_sound
      intro h0
      rcases hr with hr | ⟨hr, -⟩
      · rw [hr]
        unfold WatermarkSound at h
        rw [hw] at h0
        cases hc : s.ru.reached with
        | false => rfl
        | true => exact absurd h0 (h.1 hc).1
      · exact hr
  unfold settle
  dsimp only
  generalize (if s.unread = t.unread then t else judgeWatermark t) = judged at hj ⊢
  split
  · exact hj
  · exact watermarkSound_of_eq (judgeHold_readout _).1 (judgeHold_readout _).2 hj

end Sys2Proof.Machine
end

