-- ==== Sys2Proof/Laws/State.lean ====
section
/-! SUPPORT. The fields of a state after each named update: one lemma per field per update, and the fields that
the conditional updates leave alone. -/

namespace Sys2Proof.Machine
open Sys2Proof

/-! ### setContext -/

@[simp] theorem setContext_powered (ctx : FrameContext) (s : State) : (setContext ctx s).powered = s.powered := rfl
@[simp] theorem setContext_porActive (ctx : FrameContext) (s : State) :
    (setContext ctx s).porActive =
      s.porActive := rfl
@[simp] theorem setContext_resetLow (ctx : FrameContext) (s : State) :
    (setContext ctx s).resetLow =
      s.resetLow := rfl
@[simp] theorem setContext_hSel (ctx : FrameContext) (s : State) : (setContext ctx s).hSel = s.hSel := rfl
@[simp] theorem setContext_hClk (ctx : FrameContext) (s : State) : (setContext ctx s).hClk = s.hClk := rfl
@[simp] theorem setContext_lanes (ctx : FrameContext) (s : State) : (setContext ctx s).lanes = s.lanes := rfl
@[simp] theorem setContext_sSel (ctx : FrameContext) (s : State) : (setContext ctx s).sSel = s.sSel := rfl
@[simp] theorem setContext_sLine (ctx : FrameContext) (s : State) : (setContext ctx s).sLine = s.sLine := rfl
@[simp] theorem setContext_tap (ctx : FrameContext) (s : State) :
    (setContext ctx s).tap =
      { s.tap with boundary := .inFrame ctx } := rfl
@[simp] theorem setContext_opTable (ctx : FrameContext) (s : State) : (setContext ctx s).opTable = s.opTable := rfl
@[simp] theorem setContext_mu (ctx : FrameContext) (s : State) : (setContext ctx s).mu = s.mu := rfl
@[simp] theorem setContext_seq (ctx : FrameContext) (s : State) : (setContext ctx s).seq = s.seq := rfl
@[simp] theorem setContext_cc (ctx : FrameContext) (s : State) : (setContext ctx s).cc = s.cc := rfl
@[simp] theorem setContext_tm (ctx : FrameContext) (s : State) : (setContext ctx s).tm = s.tm := rfl
@[simp] theorem setContext_ru (ctx : FrameContext) (s : State) : (setContext ctx s).ru = s.ru := rfl
@[simp] theorem setContext_tb (ctx : FrameContext) (s : State) : (setContext ctx s).tb = s.tb := rfl
@[simp] theorem setContext_sp (ctx : FrameContext) (s : State) : (setContext ctx s).sp = s.sp := rfl
@[simp] theorem setContext_tally (ctx : FrameContext) (s : State) : (setContext ctx s).tally = s.tally := rfl
@[simp] theorem setContext_pending (ctx : FrameContext) (s : State) : (setContext ctx s).pending = s.pending := rfl

/-- A sampling edge takes H_CLK from the copied idle level to the other one (R8). -/
theorem isSamplingEdge_iff (ctx : FrameContext) (before after : Bool) :
    ctx.isSamplingEdge before after = true ↔ before = ctx.idleLevel ∧ after = !ctx.idleLevel := by
  cases before <;> cases after <;> cases h : ctx.idleLevel <;> simp [FrameContext.isSamplingEdge, h]

/-! ### drivePins -/

@[simp] theorem drivePins_powered (k : LinkLevels) (s : State) : (drivePins k s).powered = s.powered := rfl
@[simp] theorem drivePins_porActive (k : LinkLevels) (s : State) : (drivePins k s).porActive = s.porActive := rfl
@[simp] theorem drivePins_resetLow (k : LinkLevels) (s : State) : (drivePins k s).resetLow = s.resetLow := rfl
@[simp] theorem drivePins_hSel (k : LinkLevels) (s : State) : (drivePins k s).hSel = s.hSel := rfl
@[simp] theorem drivePins_hClk (k : LinkLevels) (s : State) : (drivePins k s).hClk = k.clock := rfl
@[simp] theorem drivePins_lanes (k : LinkLevels) (s : State) : (drivePins k s).lanes = k.lanes := rfl
@[simp] theorem drivePins_sSel (k : LinkLevels) (s : State) : (drivePins k s).sSel = s.sSel := rfl
@[simp] theorem drivePins_sLine (k : LinkLevels) (s : State) : (drivePins k s).sLine = s.sLine := rfl
@[simp] theorem drivePins_tap (k : LinkLevels) (s : State) : (drivePins k s).tap = s.tap := rfl
@[simp] theorem drivePins_opTable (k : LinkLevels) (s : State) : (drivePins k s).opTable = s.opTable := rfl
@[simp] theorem drivePins_mu (k : LinkLevels) (s : State) : (drivePins k s).mu = s.mu := rfl
@[simp] theorem drivePins_seq (k : LinkLevels) (s : State) : (drivePins k s).seq = s.seq := rfl
@[simp] theorem drivePins_cc (k : LinkLevels) (s : State) : (drivePins k s).cc = s.cc := rfl
@[simp] theorem drivePins_tm (k : LinkLevels) (s : State) : (drivePins k s).tm = s.tm := rfl
@[simp] theorem drivePins_ru (k : LinkLevels) (s : State) : (drivePins k s).ru = s.ru := rfl
@[simp] theorem drivePins_tb (k : LinkLevels) (s : State) : (drivePins k s).tb = s.tb := rfl
@[simp] theorem drivePins_sp (k : LinkLevels) (s : State) : (drivePins k s).sp = s.sp := rfl
@[simp] theorem drivePins_tally (k : LinkLevels) (s : State) : (drivePins k s).tally = s.tally := rfl
@[simp] theorem drivePins_pending (k : LinkLevels) (s : State) : (drivePins k s).pending = s.pending := rfl

/-! ### setReply -/

@[simp] theorem setReply_powered (r : Reply) (b : Byte) (s : State) : (setReply r b s).powered = s.powered := rfl
@[simp] theorem setReply_porActive (r : Reply) (b : Byte) (s : State) : (setReply r b s).porActive = s.porActive := rfl
@[simp] theorem setReply_resetLow (r : Reply) (b : Byte) (s : State) : (setReply r b s).resetLow = s.resetLow := rfl
@[simp] theorem setReply_hSel (r : Reply) (b : Byte) (s : State) : (setReply r b s).hSel = s.hSel := rfl
@[simp] theorem setReply_hClk (r : Reply) (b : Byte) (s : State) : (setReply r b s).hClk = s.hClk := rfl
@[simp] theorem setReply_lanes (r : Reply) (b : Byte) (s : State) : (setReply r b s).lanes = s.lanes := rfl
@[simp] theorem setReply_sSel (r : Reply) (b : Byte) (s : State) : (setReply r b s).sSel = s.sSel := rfl
@[simp] theorem setReply_sLine (r : Reply) (b : Byte) (s : State) : (setReply r b s).sLine = lineAfter b := rfl
@[simp] theorem setReply_tap (r : Reply) (b : Byte) (s : State) : (setReply r b s).tap = s.tap := rfl
@[simp] theorem setReply_opTable (r : Reply) (b : Byte) (s : State) : (setReply r b s).opTable = s.opTable := rfl
@[simp] theorem setReply_mu (r : Reply) (b : Byte) (s : State) : (setReply r b s).mu = s.mu := rfl
@[simp] theorem setReply_seq (r : Reply) (b : Byte) (s : State) : (setReply r b s).seq = s.seq := rfl
@[simp] theorem setReply_cc (r : Reply) (b : Byte) (s : State) : (setReply r b s).cc = s.cc := rfl
@[simp] theorem setReply_tm (r : Reply) (b : Byte) (s : State) : (setReply r b s).tm = s.tm := rfl
@[simp] theorem setReply_ru (r : Reply) (b : Byte) (s : State) : (setReply r b s).ru = s.ru := rfl
@[simp] theorem setReply_tb (r : Reply) (b : Byte) (s : State) : (setReply r b s).tb = s.tb := rfl
@[simp] theorem setReply_sp (r : Reply) (b : Byte) (s : State) :
    (setReply r b s).sp =
      { s.sp with
        frame := .reply, reply := some r, ready := false, bits := [], byteAt := none, pendingSent := 0 } := rfl
@[simp] theorem setReply_tally (r : Reply) (b : Byte) (s : State) : (setReply r b s).tally = s.tally := rfl
@[simp] theorem setReply_pending (r : Reply) (b : Byte) (s : State) : (setReply r b s).pending = s.pending := rfl

/-! ### zeroTime -/

@[simp] theorem zeroTime_powered (s : State) : (zeroTime s).powered = s.powered := rfl
@[simp] theorem zeroTime_porActive (s : State) : (zeroTime s).porActive = s.porActive := rfl
@[simp] theorem zeroTime_resetLow (s : State) : (zeroTime s).resetLow = s.resetLow := rfl
@[simp] theorem zeroTime_hSel (s : State) : (zeroTime s).hSel = s.hSel := rfl
@[simp] theorem zeroTime_hClk (s : State) : (zeroTime s).hClk = s.hClk := rfl
@[simp] theorem zeroTime_lanes (s : State) : (zeroTime s).lanes = s.lanes := rfl
@[simp] theorem zeroTime_sSel (s : State) : (zeroTime s).sSel = s.sSel := rfl
@[simp] theorem zeroTime_sLine (s : State) : (zeroTime s).sLine = s.sLine := rfl
@[simp] theorem zeroTime_tap (s : State) : (zeroTime s).tap = s.tap := rfl
@[simp] theorem zeroTime_opTable (s : State) : (zeroTime s).opTable = s.opTable := rfl
@[simp] theorem zeroTime_mu (s : State) : (zeroTime s).mu = s.mu := rfl
@[simp] theorem zeroTime_seq (s : State) : (zeroTime s).seq = s.seq := rfl
@[simp] theorem zeroTime_cc (s : State) : (zeroTime s).cc = s.cc := rfl
@[simp] theorem zeroTime_tm (s : State) : (zeroTime s).tm = s.tm := rfl
@[simp] theorem zeroTime_ru (s : State) : (zeroTime s).ru = s.ru := rfl
@[simp] theorem zeroTime_tb (s : State) :
    (zeroTime s).tb =
      { s.tb with time := 0, divider := 0, timeReset := true } := rfl
@[simp] theorem zeroTime_sp (s : State) : (zeroTime s).sp = s.sp := rfl
@[simp] theorem zeroTime_tally (s : State) : (zeroTime s).tally = s.tally := rfl
@[simp] theorem zeroTime_pending (s : State) : (zeroTime s).pending = s.pending := rfl

/-! ### startSession -/

@[simp] theorem startSession_powered (s : State) : (startSession s).powered = s.powered := rfl
@[simp] theorem startSession_porActive (s : State) : (startSession s).porActive = s.porActive := rfl
@[simp] theorem startSession_resetLow (s : State) : (startSession s).resetLow = s.resetLow := rfl
@[simp] theorem startSession_hSel (s : State) : (startSession s).hSel = s.hSel := rfl
@[simp] theorem startSession_hClk (s : State) : (startSession s).hClk = s.hClk := rfl
@[simp] theorem startSession_lanes (s : State) : (startSession s).lanes = s.lanes := rfl
@[simp] theorem startSession_sSel (s : State) : (startSession s).sSel = s.sSel := rfl
@[simp] theorem startSession_sLine (s : State) : (startSession s).sLine = s.sLine := rfl
@[simp] theorem startSession_tap (s : State) : (startSession s).tap = s.tap := rfl
@[simp] theorem startSession_opTable (s : State) : (startSession s).opTable = s.opTable := rfl
@[simp] theorem startSession_mu (s : State) : (startSession s).mu = s.mu := rfl
@[simp] theorem startSession_seq (s : State) :
    (startSession s).seq =
      { s.seq.enter 0 with sessionStart := s.tap.frameStarts } := rfl
@[simp] theorem startSession_cc (s : State) :
    (startSession s).cc =
      { s.cc with state := if s.cc.setup.mode = .window then .pretrig else .streaming } := rfl
@[simp] theorem startSession_tm (s : State) : (startSession s).tm = s.tm := rfl
@[simp] theorem startSession_ru (s : State) : (startSession s).ru = s.ru := rfl
@[simp] theorem startSession_tb (s : State) : (startSession s).tb = s.tb := rfl
@[simp] theorem startSession_sp (s : State) : (startSession s).sp = s.sp := rfl
@[simp] theorem startSession_tally (s : State) : (startSession s).tally = s.tally := rfl
@[simp] theorem startSession_pending (s : State) : (startSession s).pending = s.pending := rfl

/-! ### removeOldest -/

@[simp] theorem removeOldest_powered (k : Nat) (s : State) : (removeOldest k s).powered = s.powered := rfl
@[simp] theorem removeOldest_porActive (k : Nat) (s : State) : (removeOldest k s).porActive = s.porActive := rfl
@[simp] theorem removeOldest_resetLow (k : Nat) (s : State) : (removeOldest k s).resetLow = s.resetLow := rfl
@[simp] theorem removeOldest_hSel (k : Nat) (s : State) : (removeOldest k s).hSel = s.hSel := rfl
@[simp] theorem removeOldest_hClk (k : Nat) (s : State) : (removeOldest k s).hClk = s.hClk := rfl
@[simp] theorem removeOldest_lanes (k : Nat) (s : State) : (removeOldest k s).lanes = s.lanes := rfl
@[simp] theorem removeOldest_sSel (k : Nat) (s : State) : (removeOldest k s).sSel = s.sSel := rfl
@[simp] theorem removeOldest_sLine (k : Nat) (s : State) : (removeOldest k s).sLine = s.sLine := rfl
@[simp] theorem removeOldest_tap (k : Nat) (s : State) : (removeOldest k s).tap = s.tap := rfl
@[simp] theorem removeOldest_opTable (k : Nat) (s : State) : (removeOldest k s).opTable = s.opTable := rfl
@[simp] theorem removeOldest_mu (k : Nat) (s : State) : (removeOldest k s).mu = s.mu := rfl
@[simp] theorem removeOldest_seq (k : Nat) (s : State) : (removeOldest k s).seq = s.seq := rfl
@[simp] theorem removeOldest_cc (k : Nat) (s : State) :
    (removeOldest k s).cc =
      { s.cc with preCount := s.cc.preCount - preRecords (s.tm.trace.take k) } := rfl
@[simp] theorem removeOldest_tm (k : Nat) (s : State) :
    (removeOldest k s).tm =
      { s.tm with trace := s.tm.trace.drop k, free := s.tm.free + unitsOf (s.tm.trace.take k) } := rfl
@[simp] theorem removeOldest_ru (k : Nat) (s : State) :
    (removeOldest k s).ru =
      { s.ru with cursor := s.ru.cursor - k, mark := s.ru.mark.map (· - k) } := rfl
@[simp] theorem removeOldest_tb (k : Nat) (s : State) : (removeOldest k s).tb = s.tb := rfl
@[simp] theorem removeOldest_sp (k : Nat) (s : State) : (removeOldest k s).sp = s.sp := rfl
@[simp] theorem removeOldest_tally (k : Nat) (s : State) : (removeOldest k s).tally = s.tally := rfl
@[simp] theorem removeOldest_pending (k : Nat) (s : State) : (removeOldest k s).pending = s.pending := rfl

/-! ### appendRecord -/

@[simp] theorem appendRecord_powered (r : Record) (pre : Bool) (s : State) :
    (appendRecord r pre s).powered =
      s.powered := rfl
@[simp] theorem appendRecord_porActive (r : Record) (pre : Bool) (s : State) :
    (appendRecord r pre s).porActive =
      s.porActive := rfl
@[simp] theorem appendRecord_resetLow (r : Record) (pre : Bool) (s : State) :
    (appendRecord r pre s).resetLow =
      s.resetLow := rfl
@[simp] theorem appendRecord_hSel (r : Record) (pre : Bool) (s : State) : (appendRecord r pre s).hSel = s.hSel := rfl
@[simp] theorem appendRecord_hClk (r : Record) (pre : Bool) (s : State) : (appendRecord r pre s).hClk = s.hClk := rfl
@[simp] theorem appendRecord_lanes (r : Record) (pre : Bool) (s : State) :
    (appendRecord r pre s).lanes =
      s.lanes := rfl
@[simp] theorem appendRecord_sSel (r : Record) (pre : Bool) (s : State) : (appendRecord r pre s).sSel = s.sSel := rfl
@[simp] theorem appendRecord_sLine (r : Record) (pre : Bool) (s : State) : (appendRecord r pre s).sLine = s.sLine := rfl
@[simp] theorem appendRecord_tap (r : Record) (pre : Bool) (s : State) : (appendRecord r pre s).tap = s.tap := rfl
@[simp] theorem appendRecord_opTable (r : Record) (pre : Bool) (s : State) :
    (appendRecord r pre s).opTable =
      s.opTable := rfl
@[simp] theorem appendRecord_mu (r : Record) (pre : Bool) (s : State) : (appendRecord r pre s).mu = s.mu := rfl
@[simp] theorem appendRecord_seq (r : Record) (pre : Bool) (s : State) : (appendRecord r pre s).seq = s.seq := rfl
@[simp] theorem appendRecord_cc (r : Record) (pre : Bool) (s : State) :
    (appendRecord r pre s).cc =
      { s.cc with appended := satAdd Config.max32 s.cc.appended 1 } := rfl
@[simp] theorem appendRecord_tm (r : Record) (pre : Bool) (s : State) :
    (appendRecord r pre s).tm =
      { s.tm with trace := s.tm.trace ++ [{ id := s.tm.nextId, record := r, pre := pre }],
                  nextId := s.tm.nextId + 1, free := s.tm.free - r.units } := rfl
@[simp] theorem appendRecord_ru (r : Record) (pre : Bool) (s : State) : (appendRecord r pre s).ru = s.ru := rfl
@[simp] theorem appendRecord_tb (r : Record) (pre : Bool) (s : State) :
    (appendRecord r pre s).tb =
      { s.tb with timeReset := s.tb.timeReset && !r.flaggedTimeReset } := rfl
@[simp] theorem appendRecord_sp (r : Record) (pre : Bool) (s : State) : (appendRecord r pre s).sp = s.sp := rfl
@[simp] theorem appendRecord_tally (r : Record) (pre : Bool) (s : State) :
    (appendRecord r pre s).tally =
      s.tally := rfl
@[simp] theorem appendRecord_pending (r : Record) (pre : Bool) (s : State) :
    (appendRecord r pre s).pending =
      s.pending := rfl

/-! ### emptyTrace -/

@[simp] theorem emptyTrace_powered (s : State) : (emptyTrace s).powered = s.powered := rfl
@[simp] theorem emptyTrace_porActive (s : State) : (emptyTrace s).porActive = s.porActive := rfl
@[simp] theorem emptyTrace_resetLow (s : State) : (emptyTrace s).resetLow = s.resetLow := rfl
@[simp] theorem emptyTrace_hSel (s : State) : (emptyTrace s).hSel = s.hSel := rfl
@[simp] theorem emptyTrace_hClk (s : State) : (emptyTrace s).hClk = s.hClk := rfl
@[simp] theorem emptyTrace_lanes (s : State) : (emptyTrace s).lanes = s.lanes := rfl
@[simp] theorem emptyTrace_sSel (s : State) : (emptyTrace s).sSel = s.sSel := rfl
@[simp] theorem emptyTrace_sLine (s : State) : (emptyTrace s).sLine = s.sLine := rfl
@[simp] theorem emptyTrace_tap (s : State) : (emptyTrace s).tap = s.tap := rfl
@[simp] theorem emptyTrace_opTable (s : State) : (emptyTrace s).opTable = s.opTable := rfl
@[simp] theorem emptyTrace_mu (s : State) : (emptyTrace s).mu = s.mu := rfl
@[simp] theorem emptyTrace_seq (s : State) : (emptyTrace s).seq = s.seq := rfl
@[simp] theorem emptyTrace_cc (s : State) : (emptyTrace s).cc = s.cc := rfl
@[simp] theorem emptyTrace_tm (s : State) :
    (emptyTrace s).tm =
      { s.tm with trace := [], free := Config.traceUnits, holdSpent := false } := rfl
@[simp] theorem emptyTrace_ru (s : State) :
    (emptyTrace s).ru =
      { s.ru with cursor := 0, mark := none, reached := false } := rfl
@[simp] theorem emptyTrace_tb (s : State) : (emptyTrace s).tb = s.tb := rfl
@[simp] theorem emptyTrace_sp (s : State) : (emptyTrace s).sp = s.sp := rfl
@[simp] theorem emptyTrace_tally (s : State) : (emptyTrace s).tally = s.tally := rfl
@[simp] theorem emptyTrace_pending (s : State) : (emptyTrace s).pending = s.pending := rfl

/-! ### resetBlocks -/

@[simp] theorem resetBlocks_powered (s : State) : (resetBlocks s).powered = s.powered := rfl
@[simp] theorem resetBlocks_porActive (s : State) : (resetBlocks s).porActive = s.porActive := rfl
@[simp] theorem resetBlocks_resetLow (s : State) : (resetBlocks s).resetLow = s.resetLow := rfl
@[simp] theorem resetBlocks_hSel (s : State) : (resetBlocks s).hSel = s.hSel := rfl
@[simp] theorem resetBlocks_hClk (s : State) : (resetBlocks s).hClk = s.hClk := rfl
@[simp] theorem resetBlocks_lanes (s : State) : (resetBlocks s).lanes = s.lanes := rfl
@[simp] theorem resetBlocks_sSel (s : State) : (resetBlocks s).sSel = s.sSel := rfl
@[simp] theorem resetBlocks_sLine (s : State) : (resetBlocks s).sLine = s.sLine := rfl
@[simp] theorem resetBlocks_tap (s : State) : (resetBlocks s).tap = LinkTap.reset := rfl
@[simp] theorem resetBlocks_opTable (s : State) : (resetBlocks s).opTable = OpcodeTable.reset := rfl
@[simp] theorem resetBlocks_mu (s : State) : (resetBlocks s).mu = MatchUnit.reset := rfl
@[simp] theorem resetBlocks_seq (s : State) : (resetBlocks s).seq = Sequencer.reset := rfl
@[simp] theorem resetBlocks_cc (s : State) : (resetBlocks s).cc = Capture.reset := rfl
@[simp] theorem resetBlocks_tm (s : State) : (resetBlocks s).tm = TraceMemory.reset := rfl
@[simp] theorem resetBlocks_ru (s : State) : (resetBlocks s).ru = Readout.reset := rfl
@[simp] theorem resetBlocks_tb (s : State) : (resetBlocks s).tb = Timebase.reset := rfl
@[simp] theorem resetBlocks_sp (s : State) : (resetBlocks s).sp = ServicePort.reset := rfl
@[simp] theorem resetBlocks_tally (s : State) : (resetBlocks s).tally = Tally.reset := rfl
@[simp] theorem resetBlocks_pending (s : State) : (resetBlocks s).pending = s.pending := rfl

/-! ### leaveReset -/

@[simp] theorem leaveReset_powered (c : ResetCause) (s : State) : (leaveReset c s).powered = s.powered := rfl
@[simp] theorem leaveReset_porActive (c : ResetCause) (s : State) : (leaveReset c s).porActive = s.porActive := rfl
@[simp] theorem leaveReset_resetLow (c : ResetCause) (s : State) : (leaveReset c s).resetLow = s.resetLow := rfl
@[simp] theorem leaveReset_hSel (c : ResetCause) (s : State) : (leaveReset c s).hSel = s.hSel := rfl
@[simp] theorem leaveReset_hClk (c : ResetCause) (s : State) : (leaveReset c s).hClk = s.hClk := rfl
@[simp] theorem leaveReset_lanes (c : ResetCause) (s : State) : (leaveReset c s).lanes = s.lanes := rfl
@[simp] theorem leaveReset_sSel (c : ResetCause) (s : State) : (leaveReset c s).sSel = s.sSel := rfl
@[simp] theorem leaveReset_sLine (c : ResetCause) (s : State) : (leaveReset c s).sLine = s.sLine := rfl
@[simp] theorem leaveReset_tap (c : ResetCause) (s : State) :
    (leaveReset c s).tap =
      { s.tap with boundary := if s.hSel = 0 then .idle else .skipping } := rfl
@[simp] theorem leaveReset_opTable (c : ResetCause) (s : State) : (leaveReset c s).opTable = s.opTable := rfl
@[simp] theorem leaveReset_mu (c : ResetCause) (s : State) : (leaveReset c s).mu = s.mu := rfl
@[simp] theorem leaveReset_seq (c : ResetCause) (s : State) : (leaveReset c s).seq = s.seq := rfl
@[simp] theorem leaveReset_cc (c : ResetCause) (s : State) : (leaveReset c s).cc = s.cc := rfl
@[simp] theorem leaveReset_tm (c : ResetCause) (s : State) : (leaveReset c s).tm = s.tm := rfl
@[simp] theorem leaveReset_ru (c : ResetCause) (s : State) : (leaveReset c s).ru = s.ru := rfl
@[simp] theorem leaveReset_tb (c : ResetCause) (s : State) : (leaveReset c s).tb = { s.tb with divider := 0 } := rfl
@[simp] theorem leaveReset_sp (c : ResetCause) (s : State) :
    (leaveReset c s).sp =
      { s.sp with frame := if s.sSel then .ignoring else .noFrame,
                  queue := [{ event := .restarted c, time := s.tb.time }] } := rfl
@[simp] theorem leaveReset_tally (c : ResetCause) (s : State) : (leaveReset c s).tally = s.tally := rfl
@[simp] theorem leaveReset_pending (c : ResetCause) (s : State) : (leaveReset c s).pending = s.pending := rfl

/-! ### softReset -/

@[simp] theorem softReset_powered (s : State) : (softReset s).powered = s.powered := rfl
@[simp] theorem softReset_porActive (s : State) : (softReset s).porActive = s.porActive := rfl
@[simp] theorem softReset_resetLow (s : State) : (softReset s).resetLow = s.resetLow := rfl
@[simp] theorem softReset_hSel (s : State) : (softReset s).hSel = s.hSel := rfl
@[simp] theorem softReset_hClk (s : State) : (softReset s).hClk = s.hClk := rfl
@[simp] theorem softReset_lanes (s : State) : (softReset s).lanes = s.lanes := rfl
@[simp] theorem softReset_sSel (s : State) : (softReset s).sSel = s.sSel := rfl
@[simp] theorem softReset_sLine (s : State) : (softReset s).sLine = s.sLine := rfl
@[simp] theorem softReset_tap (s : State) : (softReset s).tap = s.tap := rfl
@[simp] theorem softReset_opTable (s : State) : (softReset s).opTable = s.opTable := rfl
@[simp] theorem softReset_mu (s : State) : (softReset s).mu = s.mu := rfl
@[simp] theorem softReset_seq (s : State) : (softReset s).seq = { s.seq.toIdle with trigCount := 0 } := rfl
@[simp] theorem softReset_cc (s : State) : (softReset s).cc = Capture.fresh s.cc.setup := rfl
@[simp] theorem softReset_tm (s : State) : (softReset s).tm = { TraceMemory.reset with nextId := s.tm.nextId } := rfl
@[simp] theorem softReset_ru (s : State) :
    (softReset s).ru =
      { Readout.reset with watermark := s.ru.watermark } := rfl
@[simp] theorem softReset_tb (s : State) : (softReset s).tb = { s.tb with timeReset := false } := rfl
@[simp] theorem softReset_sp (s : State) :
    (softReset s).sp =
      { s.sp with queue := [{ event := .restarted .soft, time := s.tb.time }], inFlight := none } := rfl
@[simp] theorem softReset_tally (s : State) : (softReset s).tally = s.tally := rfl
@[simp] theorem softReset_pending (s : State) : (softReset s).pending = s.pending := rfl

/-! ### abandonReply -/

@[simp] theorem abandonReply_powered (s : State) : (abandonReply s).powered = s.powered := rfl
@[simp] theorem abandonReply_porActive (s : State) : (abandonReply s).porActive = s.porActive := rfl
@[simp] theorem abandonReply_resetLow (s : State) : (abandonReply s).resetLow = s.resetLow := rfl
@[simp] theorem abandonReply_hSel (s : State) : (abandonReply s).hSel = s.hSel := rfl
@[simp] theorem abandonReply_hClk (s : State) : (abandonReply s).hClk = s.hClk := rfl
@[simp] theorem abandonReply_lanes (s : State) : (abandonReply s).lanes = s.lanes := rfl
@[simp] theorem abandonReply_sSel (s : State) : (abandonReply s).sSel = s.sSel := rfl
@[simp] theorem abandonReply_sLine (s : State) : (abandonReply s).sLine = s.sLine := rfl
@[simp] theorem abandonReply_tap (s : State) : (abandonReply s).tap = s.tap := rfl
@[simp] theorem abandonReply_opTable (s : State) : (abandonReply s).opTable = s.opTable := rfl
@[simp] theorem abandonReply_mu (s : State) : (abandonReply s).mu = s.mu := rfl
@[simp] theorem abandonReply_seq (s : State) : (abandonReply s).seq = s.seq := rfl
@[simp] theorem abandonReply_cc (s : State) : (abandonReply s).cc = s.cc := rfl
@[simp] theorem abandonReply_tm (s : State) : (abandonReply s).tm = s.tm := rfl
@[simp] theorem abandonReply_ru (s : State) : (abandonReply s).ru = { s.ru with inFlight := none } := rfl
@[simp] theorem abandonReply_tb (s : State) : (abandonReply s).tb = s.tb := rfl
@[simp] theorem abandonReply_sp (s : State) :
    (abandonReply s).sp =
      { s.sp with reply := none, ready := false, inFlight := none } := rfl
@[simp] theorem abandonReply_tally (s : State) : (abandonReply s).tally = s.tally := rfl
@[simp] theorem abandonReply_pending (s : State) : (abandonReply s).pending = s.pending := rfl

/-! ### rewindTo -/

@[simp] theorem rewindTo_powered (m : Nat) (s : State) : (rewindTo m s).powered = s.powered := rfl
@[simp] theorem rewindTo_porActive (m : Nat) (s : State) : (rewindTo m s).porActive = s.porActive := rfl
@[simp] theorem rewindTo_resetLow (m : Nat) (s : State) : (rewindTo m s).resetLow = s.resetLow := rfl
@[simp] theorem rewindTo_hSel (m : Nat) (s : State) : (rewindTo m s).hSel = s.hSel := rfl
@[simp] theorem rewindTo_hClk (m : Nat) (s : State) : (rewindTo m s).hClk = s.hClk := rfl
@[simp] theorem rewindTo_lanes (m : Nat) (s : State) : (rewindTo m s).lanes = s.lanes := rfl
@[simp] theorem rewindTo_sSel (m : Nat) (s : State) : (rewindTo m s).sSel = s.sSel := rfl
@[simp] theorem rewindTo_sLine (m : Nat) (s : State) : (rewindTo m s).sLine = s.sLine := rfl
@[simp] theorem rewindTo_tap (m : Nat) (s : State) : (rewindTo m s).tap = s.tap := rfl
@[simp] theorem rewindTo_opTable (m : Nat) (s : State) : (rewindTo m s).opTable = s.opTable := rfl
@[simp] theorem rewindTo_mu (m : Nat) (s : State) : (rewindTo m s).mu = s.mu := rfl
@[simp] theorem rewindTo_seq (m : Nat) (s : State) : (rewindTo m s).seq = s.seq := rfl
@[simp] theorem rewindTo_cc (m : Nat) (s : State) : (rewindTo m s).cc = s.cc := rfl
@[simp] theorem rewindTo_tm (m : Nat) (s : State) : (rewindTo m s).tm = s.tm := rfl
@[simp] theorem rewindTo_ru (m : Nat) (s : State) :
    (rewindTo m s).ru =
      { s.ru with cursor := m, mark := none } := rfl
@[simp] theorem rewindTo_tb (m : Nat) (s : State) : (rewindTo m s).tb = s.tb := rfl
@[simp] theorem rewindTo_sp (m : Nat) (s : State) : (rewindTo m s).sp = s.sp := rfl
@[simp] theorem rewindTo_tally (m : Nat) (s : State) : (rewindTo m s).tally = s.tally := rfl
@[simp] theorem rewindTo_pending (m : Nat) (s : State) : (rewindTo m s).pending = s.pending := rfl

/-! ### emitSync changes the timebase alone -/

@[simp] theorem emitSync_powered (s : State) : (emitSync s).powered = s.powered := by unfold emitSync; split <;> rfl
@[simp] theorem emitSync_porActive (s : State) : (emitSync s).porActive = s.porActive := by unfold emitSync; split <;> rfl
@[simp] theorem emitSync_resetLow (s : State) : (emitSync s).resetLow = s.resetLow := by unfold emitSync; split <;> rfl
@[simp] theorem emitSync_hSel (s : State) : (emitSync s).hSel = s.hSel := by unfold emitSync; split <;> rfl
@[simp] theorem emitSync_hClk (s : State) : (emitSync s).hClk = s.hClk := by unfold emitSync; split <;> rfl
@[simp] theorem emitSync_lanes (s : State) : (emitSync s).lanes = s.lanes := by unfold emitSync; split <;> rfl
@[simp] theorem emitSync_sSel (s : State) : (emitSync s).sSel = s.sSel := by unfold emitSync; split <;> rfl
@[simp] theorem emitSync_sLine (s : State) : (emitSync s).sLine = s.sLine := by unfold emitSync; split <;> rfl
@[simp] theorem emitSync_tap (s : State) : (emitSync s).tap = s.tap := by unfold emitSync; split <;> rfl
@[simp] theorem emitSync_opTable (s : State) : (emitSync s).opTable = s.opTable := by unfold emitSync; split <;> rfl
@[simp] theorem emitSync_mu (s : State) : (emitSync s).mu = s.mu := by unfold emitSync; split <;> rfl
@[simp] theorem emitSync_seq (s : State) : (emitSync s).seq = s.seq := by unfold emitSync; split <;> rfl
@[simp] theorem emitSync_cc (s : State) : (emitSync s).cc = s.cc := by unfold emitSync; split <;> rfl
@[simp] theorem emitSync_tm (s : State) : (emitSync s).tm = s.tm := by unfold emitSync; split <;> rfl
@[simp] theorem emitSync_ru (s : State) : (emitSync s).ru = s.ru := by unfold emitSync; split <;> rfl
@[simp] theorem emitSync_sp (s : State) : (emitSync s).sp = s.sp := by unfold emitSync; split <;> rfl
@[simp] theorem emitSync_tally (s : State) : (emitSync s).tally = s.tally := by unfold emitSync; split <;> rfl
@[simp] theorem emitSync_pending (s : State) : (emitSync s).pending = s.pending := by unfold emitSync; split <;> rfl

/-! ### applyLinkControl changes the tap, the evaluation and the current frame alone -/

@[simp] theorem applyLinkControl_powered (d i : Option Bool) (l : Option OpcodeLanes) (s : State) :
    (applyLinkControl d i l s).powered = s.powered := by
  unfold applyLinkControl setDecodeEnable abandonFrame; dsimp only; (repeat' split) <;> rfl
@[simp] theorem applyLinkControl_porActive (d i : Option Bool) (l : Option OpcodeLanes) (s : State) :
    (applyLinkControl d i l s).porActive = s.porActive := by
  unfold applyLinkControl setDecodeEnable abandonFrame; dsimp only; (repeat' split) <;> rfl
@[simp] theorem applyLinkControl_resetLow (d i : Option Bool) (l : Option OpcodeLanes) (s : State) :
    (applyLinkControl d i l s).resetLow = s.resetLow := by
  unfold applyLinkControl setDecodeEnable abandonFrame; dsimp only; (repeat' split) <;> rfl
@[simp] theorem applyLinkControl_hSel (d i : Option Bool) (l : Option OpcodeLanes) (s : State) :
    (applyLinkControl d i l s).hSel = s.hSel := by
  unfold applyLinkControl setDecodeEnable abandonFrame; dsimp only; (repeat' split) <;> rfl
@[simp] theorem applyLinkControl_hClk (d i : Option Bool) (l : Option OpcodeLanes) (s : State) :
    (applyLinkControl d i l s).hClk = s.hClk := by
  unfold applyLinkControl setDecodeEnable abandonFrame; dsimp only; (repeat' split) <;> rfl
@[simp] theorem applyLinkControl_lanes (d i : Option Bool) (l : Option OpcodeLanes) (s : State) :
    (applyLinkControl d i l s).lanes = s.lanes := by
  unfold applyLinkControl setDecodeEnable abandonFrame; dsimp only; (repeat' split) <;> rfl
@[simp] theorem applyLinkControl_sSel (d i : Option Bool) (l : Option OpcodeLanes) (s : State) :
    (applyLinkControl d i l s).sSel = s.sSel := by
  unfold applyLinkControl setDecodeEnable abandonFrame; dsimp only; (repeat' split) <;> rfl
@[simp] theorem applyLinkControl_sLine (d i : Option Bool) (l : Option OpcodeLanes) (s : State) :
    (applyLinkControl d i l s).sLine = s.sLine := by
  unfold applyLinkControl setDecodeEnable abandonFrame; dsimp only; (repeat' split) <;> rfl
@[simp] theorem applyLinkControl_opTable (d i : Option Bool) (l : Option OpcodeLanes) (s : State) :
    (applyLinkControl d i l s).opTable = s.opTable := by
  unfold applyLinkControl setDecodeEnable abandonFrame; dsimp only; (repeat' split) <;> rfl
@[simp] theorem applyLinkControl_seq (d i : Option Bool) (l : Option OpcodeLanes) (s : State) :
    (applyLinkControl d i l s).seq = s.seq := by
  unfold applyLinkControl setDecodeEnable abandonFrame; dsimp only; (repeat' split) <;> rfl
@[simp] theorem applyLinkControl_tm (d i : Option Bool) (l : Option OpcodeLanes) (s : State) :
    (applyLinkControl d i l s).tm = s.tm := by
  unfold applyLinkControl setDecodeEnable abandonFrame; dsimp only; (repeat' split) <;> rfl
@[simp] theorem applyLinkControl_ru (d i : Option Bool) (l : Option OpcodeLanes) (s : State) :
    (applyLinkControl d i l s).ru = s.ru := by
  unfold applyLinkControl setDecodeEnable abandonFrame; dsimp only; (repeat' split) <;> rfl
@[simp] theorem applyLinkControl_tb (d i : Option Bool) (l : Option OpcodeLanes) (s : State) :
    (applyLinkControl d i l s).tb = s.tb := by
  unfold applyLinkControl setDecodeEnable abandonFrame; dsimp only; (repeat' split) <;> rfl
@[simp] theorem applyLinkControl_sp (d i : Option Bool) (l : Option OpcodeLanes) (s : State) :
    (applyLinkControl d i l s).sp = s.sp := by
  unfold applyLinkControl setDecodeEnable abandonFrame; dsimp only; (repeat' split) <;> rfl
@[simp] theorem applyLinkControl_tally (d i : Option Bool) (l : Option OpcodeLanes) (s : State) :
    (applyLinkControl d i l s).tally = s.tally := by
  unfold applyLinkControl setDecodeEnable abandonFrame; dsimp only; (repeat' split) <;> rfl
@[simp] theorem applyLinkControl_pending (d i : Option Bool) (l : Option OpcodeLanes) (s : State) :
    (applyLinkControl d i l s).pending = s.pending := by
  unfold applyLinkControl setDecodeEnable abandonFrame; dsimp only; (repeat' split) <;> rfl

/-! ### beginSession and prepareSession -/

@[simp] theorem prepareSession_powered (keep : Bool) (s : State) : (prepareSession keep s).powered = s.powered := by
  cases keep <;> rfl
@[simp] theorem beginSession_powered (o : Bool) (s : State) : (beginSession o s).powered = s.powered := by
  unfold beginSession; dsimp only; (repeat' split) <;> simp
@[simp] theorem prepareSession_porActive (keep : Bool) (s : State) : (prepareSession keep s).porActive = s.porActive := by
  cases keep <;> rfl
@[simp] theorem beginSession_porActive (o : Bool) (s : State) : (beginSession o s).porActive = s.porActive := by
  unfold beginSession; dsimp only; (repeat' split) <;> simp
@[simp] theorem prepareSession_resetLow (keep : Bool) (s : State) : (prepareSession keep s).resetLow = s.resetLow := by
  cases keep <;> rfl
@[simp] theorem beginSession_resetLow (o : Bool) (s : State) : (beginSession o s).resetLow = s.resetLow := by
  unfold beginSession; dsimp only; (repeat' split) <;> simp
@[simp] theorem prepareSession_hSel (keep : Bool) (s : State) : (prepareSession keep s).hSel = s.hSel := by
  cases keep <;> rfl
@[simp] theorem beginSession_hSel (o : Bool) (s : State) : (beginSession o s).hSel = s.hSel := by
  unfold beginSession; dsimp only; (repeat' split) <;> simp
@[simp] theorem prepareSession_hClk (keep : Bool) (s : State) : (prepareSession keep s).hClk = s.hClk := by
  cases keep <;> rfl
@[simp] theorem beginSession_hClk (o : Bool) (s : State) : (beginSession o s).hClk = s.hClk := by
  unfold beginSession; dsimp only; (repeat' split) <;> simp
@[simp] theorem prepareSession_lanes (keep : Bool) (s : State) : (prepareSession keep s).lanes = s.lanes := by
  cases keep <;> rfl
@[simp] theorem beginSession_lanes (o : Bool) (s : State) : (beginSession o s).lanes = s.lanes := by
  unfold beginSession; dsimp only; (repeat' split) <;> simp
@[simp] theorem prepareSession_sSel (keep : Bool) (s : State) : (prepareSession keep s).sSel = s.sSel := by
  cases keep <;> rfl
@[simp] theorem prepareSession_sLine (keep : Bool) (s : State) : (prepareSession keep s).sLine = s.sLine := by
  cases keep <;> rfl
@[simp] theorem beginSession_sSel (o : Bool) (s : State) : (beginSession o s).sSel = s.sSel := by
  unfold beginSession; dsimp only; (repeat' split) <;> simp
@[simp] theorem beginSession_sLine (o : Bool) (s : State) : (beginSession o s).sLine = s.sLine := by
  unfold beginSession; dsimp only; (repeat' split) <;> simp
@[simp] theorem prepareSession_tap (keep : Bool) (s : State) : (prepareSession keep s).tap = s.tap := by
  cases keep <;> rfl
@[simp] theorem beginSession_tap (o : Bool) (s : State) : (beginSession o s).tap = s.tap := by
  unfold beginSession; dsimp only; (repeat' split) <;> simp
@[simp] theorem prepareSession_opTable (keep : Bool) (s : State) : (prepareSession keep s).opTable = s.opTable := by
  cases keep <;> rfl
@[simp] theorem beginSession_opTable (o : Bool) (s : State) : (beginSession o s).opTable = s.opTable := by
  unfold beginSession; dsimp only; (repeat' split) <;> simp
@[simp] theorem prepareSession_mu (keep : Bool) (s : State) : (prepareSession keep s).mu = s.mu := by
  cases keep <;> rfl
@[simp] theorem beginSession_mu (o : Bool) (s : State) : (beginSession o s).mu = s.mu := by
  unfold beginSession; dsimp only; (repeat' split) <;> simp
@[simp] theorem prepareSession_sp (keep : Bool) (s : State) : (prepareSession keep s).sp = s.sp := by
  cases keep <;> rfl
@[simp] theorem beginSession_sp (o : Bool) (s : State) : (beginSession o s).sp = s.sp := by
  unfold beginSession; dsimp only; (repeat' split) <;> simp
@[simp] theorem prepareSession_tally (keep : Bool) (s : State) : (prepareSession keep s).tally = s.tally := by
  cases keep <;> rfl
@[simp] theorem beginSession_tally (o : Bool) (s : State) : (beginSession o s).tally = s.tally := by
  unfold beginSession; dsimp only; (repeat' split) <;> simp
@[simp] theorem prepareSession_pending (keep : Bool) (s : State) : (prepareSession keep s).pending = s.pending := by
  cases keep <;> rfl
@[simp] theorem beginSession_pending (o : Bool) (s : State) : (beginSession o s).pending = s.pending := by
  unfold beginSession; dsimp only; (repeat' split) <;> simp
@[simp] theorem beginSession_tm (o : Bool) (s : State) : (beginSession o s).tm = s.tm := by
  unfold beginSession; dsimp only; (repeat' split) <;> simp
@[simp] theorem beginSession_ru (o : Bool) (s : State) : (beginSession o s).ru = s.ru := by
  unfold beginSession; dsimp only; (repeat' split) <;> simp

end Sys2Proof.Machine
end

