-- ==== Sys2Proof/Laws/Moves.lean ====
section
/-! SUPPORT. What a step can do, said once: a property that every move of this list keeps is kept by every
command and by every step. -/

namespace Sys2Proof.Machine
open Sys2Proof

/-- The moves a command can make, each with what is known of the state it is made in. -/
structure Moves (P : State → Prop) : Prop where
  -- supply and resets
  powerOn : ∀ (s : State), P s → P { resetBlocks s with powered := true, porActive := true }
  powerLoss : ∀ (s : State), P s → P { resetBlocks s with powered := false, porActive := false }
  porEnds : ∀ (s : State), P s → s.powered = true → s.porActive = true → s.resetLow = true → P { s with porActive := false }
  porLeaves : ∀ (s : State), P s → s.powered = true → s.porActive = true → s.resetLow = false →
    P (leaveReset .power { s with porActive := false })
  pinFalls : ∀ (s : State), P s → s.powered = true → s.resetLow = false → P (resetBlocks { s with resetLow := true })
  pinFallsUnpowered : ∀ (s : State), P s → s.powered = false → s.resetLow = false → P { s with resetLow := true }
  pinRises : ∀ (s : State), P s → s.powered = false ∨ s.porActive = true → s.resetLow = true → P { s with resetLow := false }
  pinLeaves : ∀ (s : State), P s → s.powered = true → s.porActive = false → s.resetLow = true →
    P (leaveReset .pin { s with resetLow := false })
  -- the monitored link
  selectRises : ∀ (s : State) (n : Fin 4), P s → s.hSel.getLsbD n.val = false → (s.tap.boundary = .idle → s.hSel ≠ 0) →
    P { s with hSel := s.hSel ||| selectBit n }
  frameBegins : ∀ (s : State) (n : Fin 4), P s → s.hSel = 0 → s.tap.boundary = .idle →
    P (beginFrame n { s with hSel := s.hSel ||| selectBit n })
  collides : ∀ (s : State) (n : Fin 4) ctx, P s → s.hSel ≠ 0 → s.tap.boundary = .inFrame ctx →
    P (setContext (setCollision ctx) { s with hSel := s.hSel ||| selectBit n })
  selectFalls : ∀ (s : State) (n : Fin 4), P s → s.hSel.getLsbD n.val = true →
    (s.hSel &&& ~~~ selectBit n = 0 → s.tap.boundary ≠ .skipping ∧ ∀ ctx, s.tap.boundary ≠ .inFrame ctx) →
    P { s with hSel := s.hSel &&& ~~~ selectBit n }
  frameEnds : ∀ (s : State) (n : Fin 4) ctx, P s → s.hSel &&& ~~~ selectBit n = 0 → s.tap.boundary = .inFrame ctx →
    P (happening (endFrame ctx) { s with hSel := s.hSel &&& ~~~ selectBit n })
  skipEnds : ∀ (s : State) (n : Fin 4), P s → s.hSel &&& ~~~ selectBit n = 0 → s.tap.boundary = .skipping →
    P { s with hSel := s.hSel &&& ~~~ selectBit n, tap := { s.tap with boundary := .idle } }
  pulse : ∀ (s : State) k ctx, P s → s.tap.boundary = .inFrame ctx →
    P (happening (takePulse k.lanes ctx) (drivePins k s))
  edge : ∀ (s : State) k, P s → P (drivePins k s)
  -- ticks and counters
  tick : ∀ (s : State), P s → s.inReset = false →
    P { s with
        tap := s.tap.tick, seq := s.seq.tick
        tm := { s.tm with episode := s.tm.episode.map (Episode.tick s.cc.setup.holdLimit) }
        tb := s.tb.tick }
  stageExpires : ∀ (s : State), P s → s.seq.expired = true → P (happening expireStage s)
  holdExpires : ∀ (s : State) e, P s → holdExpiring s = some e → P (happening (expireHold e) s)
  syncEnds : ∀ (s : State), P s → P { s with tb := { s.tb with syncPulse := none } }
  xtEnds : ∀ (s : State), P s → P { s with tb := { s.tb with xtPulse := none } }
  syncEdge : ∀ (s : State), P s → s.inReset = false → s.tb.role = .follower → P (happening takeSyncEdge s)
  xtEdge : ∀ (s : State), P s → s.inReset = false → P (happening (takeHit 8) s)
  -- the service frame
  portOpens : ∀ (s : State), P s → s.sSel = false → s.sp.frame = .noFrame →
    P { s with sSel := true, sp := { s.sp with frame := .command [], bits := [], byteAt := none, out := true } }
  portRises : ∀ (s : State), P s → s.sSel = false → s.sp.frame ≠ .noFrame → P { s with sSel := true }
  portFalls : ∀ (s : State), P s → s.sSel = true → s.sp.frame = .reset → P { s with sSel := false }
  portAbandons : ∀ (s : State), P s → s.sSel = true → s.sp.frame = .reply →
    P { abandonReply { s with sSel := false } with
        sp := (abandonReply { s with sSel := false }).sp.closed }
  portCloses : ∀ (s : State), P s → s.sSel = true → s.sp.frame ≠ .reset → s.sp.frame ≠ .reply →
    P { s with sSel := false, sp := s.sp.closed }
  collects : ∀ (s : State) b c k, P s → s.sp.frame = .command b →
    P { s with sLine := k, sp := { s.sp with frame := .command c, bits := [] } }
  clockRises : ∀ (s : State) k sp, P s → s.sLine.clock = false → k.clock = true → s.sp.rising k.data = some sp →
    P { s with sLine := k, sp := sp }
  clockFalls : ∀ (s : State) k, P s → s.sLine.clock = true → k.clock = false →
    P { s with sLine := k, sp := s.sp.falling }
  lineMoves : ∀ (s : State) k, P s → P { s with sLine := k }
  ready : ∀ (s : State), P s → s.sp.frame = .reply → P { s with sp := { s.sp with ready := true } }
  replyCompletes : ∀ (s : State), P s → s.sp.frame = .reply → s.sp.ready = true → P (happening completeReply s)
  answers : ∀ (s : State) r last b, P s → s.sp.frame = .command b → P (setReply r last s)
  -- service commands
  copiesEvent : ∀ (s : State) e, P s → P { s with sp := { s.sp with inFlight := some { copied := e, addedAt := none } } }
  masks : ∀ (s : State) m, P s → P { s with sp := { s.sp with mask := m } }
  softReset : ∀ (s : State), P s → P (softReset s)
  linkControl : ∀ (s : State) d i l, P s → s.sessionActive = false → (∃ b, s.sp.frame = .command b) →
    P (applyLinkControl d i l s)
  entry : ∀ (s : State) (i : Fin 32) e, P s → s.sessionActive = false →
    (s.opTable.position e.opcode = some i ∨ s.opTable.position e.opcode = none ∧ s.opTable.freePosition = some i) →
    P { s with opTable := s.opTable.set i (some e) }
  dropEntry : ∀ (s : State) (i : Fin 32), P s → s.sessionActive = false → P { s with opTable := s.opTable.set i none }
  slot : ∀ (s : State) (n : Fin 8) f, P s → s.sessionActive = false → P { s with mu := { s.mu with slots := s.mu.slots.set n f } }
  stage : ∀ (s : State) (n : Fin 4) a g, P s → s.sessionActive = false → stage? a = some g →
    P { s with seq := { s.seq with stages := s.seq.stages.set n g } }
  sequence : ∀ (s : State) n, P s → s.sessionActive = false → 1 ≤ n → n ≤ 4 → P { s with seq := { s.seq with count := n } }
  setup : ∀ (s : State) a c, P s → s.sessionActive = false → setup? a = some c → P { s with cc := { s.cc with setup := c } }
  forces : ∀ (s : State), P s → s.seq.state = .watching → P (happening (declareTrigger .forced) s)
  arms : ∀ (s : State) o k, P s → s.sessionActive = false → (k = true → s.ru.mark = none ∧ s.tm.trace = []) →
    P (happening (fun u => beginSession o (prepareSession k u)) s)
  stops : ∀ (s : State), P s → s.sessionActive = true → P (happening (completeSession .stopped) s)
  clears : ∀ (s : State), P s → s.sessionActive = false → P (happening emptyTrace s)
  copiesRecord : ∀ (s : State) h, P s → s.atCursor = some h → P { s with ru := { s.ru with inFlight := some h.id } }
  skips : ∀ (s : State) k, P s → k ≤ s.unread → P (happening (skipRecords k) s)
  marks : ∀ (s : State), P s → s.ru.mark = none → s.unread ≠ 0 → P { s with ru := { s.ru with mark := some s.ru.cursor } }
  rewinds : ∀ (s : State) m, P s → s.ru.mark = some m → P (happening (rewindTo m) s)
  releases : ∀ (s : State) m, P s → s.ru.mark = some m → P (happening releaseMark s)
  watermark : ∀ (s : State) w, P s → w ≤ 4096 →
    P { s with ru := { s.ru with watermark := w, reached := decide (w ≠ 0) && decide (w ≤ s.unread) } }
  timebase : ∀ (s : State) a new, P s → s.sessionActive = false → timebase? a s.tb = some new →
    P { s with tb := settleTimebase s.tb new }
  syncs : ∀ (s : State), P s → s.tb.role = .leader → P (emitSync s)
  tallyEnable : ∀ (s : State) on, P s → P { s with tally := { s.tally with enable := on } }
  snapshot : ∀ (s : State) clear, P s → P { s with tally := s.tally.snapshot clear s.tb.time }

/-- A named pulse is the pulse it names, or has no effect. -/
theorem Moves.namedPulse {P : State → Prop} (m : Moves P) {s : State} (hs : P s) (row : PulseRow) (l : LinkLanes) :
    P (takeNamedPulse row l s) := by
  unfold takeNamedPulse
  split
  · next ctx hb =>
    split
    · exact m.pulse s { clock := !ctx.idleLevel, lanes := l } ctx hs hb
    · exact hs
  · exact hs

/-- A service command is answered beside what its judgement leaves, or is not taken (R158, log 6). -/
theorem Moves.taken {P : State → Prop} (m : Moves P) {s : State} (hs : P s) (i : Instr)
    (judge : State → Reply × State) (hf : (judge s).2.sp.frame = s.sp.frame)
    (hj : (∃ b, s.sp.frame = .command b) → P (judge s).2) : P (takeCommand i judge s) := by
  unfold takeCommand
  split
  · next h =>
    unfold awaits at h
    split at h
    · next bytes _ =>
      have hb := (of_decide_eq_true h).1
      exact m.answers _ _ _ _ (hj ⟨_, hb⟩) (hf.trans hb)
    · cases h
  · exact hs

/-- A transition of the service lines is one of three moves, or another row's edge (R156, log 29). -/
theorem Moves.serviceEdge {P : State → Prop} (m : Moves P) {s : State} (hs : P s) (k : ServiceLine) :
    P (takeServiceEdge k s) := by
  unfold takeServiceEdge
  split
  · next h =>
    split
    · next sp hr => exact m.clockRises s k sp hs h.1 h.2 hr
    · exact hs
  · split
    · next h => exact m.clockFalls s k hs h.1 h.2
    · exact m.lineMoves s k hs

/-- A property every move keeps is kept by every command. -/
theorem Moves.exec {P : State → Prop} (m : Moves P) {i : Instr} {s t : State} (hs : P s)
    (h : exec i s = .next t) : P t := by
  cases i <;> cases h
  case powerOn => exact m.powerOn s hs
  case powerLoss => exact m.powerLoss s hs
  case powerOnResetEnd =>
    split
    · next hc =>
      simp only [Bool.and_eq_true] at hc
      dsimp only
      split
      · next hr => exact m.porEnds s hs hc.1 hc.2 hr
      · next hr => exact m.porLeaves s hs hc.1 hc.2 (by simpa using hr)
    · exact hs
  case resetNAsserted =>
    split
    · exact hs
    · next hr =>
      simp only [Bool.not_eq_true] at hr
      dsimp only
      split
      · next hp => exact m.pinFalls s hs hp hr
      · next hp => exact m.pinFallsUnpowered s hs (by simpa using hp) hr
  case resetNReleased =>
    split
    · next hr =>
      dsimp only
      split
      · next hp =>
        simp only [Bool.and_eq_true, Bool.not_eq_true'] at hp
        exact m.pinLeaves s hs hp.1 hp.2 hr
      · next hp =>
        refine m.pinRises s hs ?_ hr
        simp only [Bool.and_eq_true, Bool.not_eq_true', not_and, Bool.not_eq_false] at hp
        cases hq : s.powered
        · exact .inl rfl
        · exact .inr (hp hq)
    · exact hs
  case selectAsserted n =>
    split
    · exact hs
    · next hb =>
      simp only [Bool.not_eq_true] at hb
      dsimp only
      split
      · next hi =>
        split
        · next h0 => exact m.frameBegins s n hs h0 hi
        · next h0 => exact m.selectRises s n hs hb fun _ => h0
      · next ctx hi =>
        split
        · exact m.selectRises s n hs hb fun h => by rw [hi] at h; cases h
        · next h0 => exact m.collides s n ctx hs h0 hi
      · next h1 h2 => exact m.selectRises s n hs hb fun h => (h1 h).elim
  case selectNegated n =>
    split
    · next hb =>
      dsimp only
      split
      · next h0 =>
        split
        · next ctx hi => exact m.frameEnds s n ctx hs h0 hi
        · next hi => exact m.skipEnds s n hs h0 hi
        · next h1 h2 => exact m.selectFalls s n hs hb fun _ => ⟨h2, h1⟩
      · next h0 => exact m.selectFalls s n hs hb fun h => (h0 h).elim
    · exact hs
  case samplingEdge k =>
    split
    · next ctx hb =>
      split
      · exact m.pulse s k ctx hs hb
      · exact m.edge s k hs
    · exact m.edge s k hs
  case opcodeComplete l => exact m.namedPulse hs _ _
  case addressComplete l => exact m.namedPulse hs _ _
  case waitDone l => exact m.namedPulse hs _ _
  case dataByteComplete l => exact m.namedPulse hs _ _
  case trailPulse l => exact m.namedPulse hs _ _
  case opaquePulse l => exact m.namedPulse hs _ _
  case timebaseTick =>
    split
    · exact hs
    · next hr => exact m.tick s hs (by simpa using hr)
  case stageTimeout =>
    split
    · next he => exact m.stageExpires s hs he
    · exact hs
  case holdExpired =>
    split
    · next e he => exact m.holdExpires s e hs he
    · exact hs
  case syncPulseEnd =>
    split
    · split
      · exact m.syncEnds s hs
      · exact hs
    · exact hs
  case xtPulseEnd =>
    split
    · split
      · exact m.xtEnds s hs
      · exact hs
    · exact hs
  case syncEdge =>
    split
    · next hc =>
      simp only [Bool.and_eq_true, Bool.not_eq_true', decide_eq_true_eq] at hc
      exact m.syncEdge s hs hc.1 hc.2
    · exact hs
  case xtEdge =>
    split
    · next hc =>
      simp only [Bool.and_eq_true, Bool.not_eq_true'] at hc
      exact m.xtEdge s hs hc.1.1
    · exact hs
  case sSelAsserted =>
    split
    · exact hs
    · next hb =>
      simp only [Bool.not_eq_true] at hb
      dsimp only
      split
      · next hf => exact m.portOpens s hs hb hf
      · next hf => exact m.portRises s hs hb hf
  case sSelNegated =>
    split
    · next hb =>
      dsimp only
      split
      · next hf => exact m.portFalls s hs hb hf
      · next hf => exact m.portAbandons s hs hb hf
      · next h1 h2 => exact m.portCloses s hs hb h1 h2
    · exact hs
  case argumentByte input =>
    split
    · next k => exact m.serviceEdge hs k
    · split
      · next bytes hf =>
        split
        · split
          · exact m.collects s _ _ _ hs hf
          · exact hs
        · exact hs
      · exact hs
  case unknownCommand code =>
    split
    · next hc => exact m.answers s _ _ _ hs hc.1
    · exact hs
  case replyReady =>
    split
    · next hf => exact m.ready s hs hf
    · exact hs
  case replyComplete =>
    split
    · next hc => exact m.replyCompletes s hs hc.1 hc.2
    · exact hs
  all_goals refine m.taken hs _ _ ?_ ?_
  case status.refl.refine_1 => rfl
  case status.refl.refine_2 => exact fun _ => hs
  case nextEvent.refl.refine_1 => unfold judgeNextEvent; split <;> rfl
  case nextEvent.refl.refine_2 =>
    intro _
    unfold judgeNextEvent
    split
    · exact hs
    · exact m.copiesEvent s _ hs
  case setEventMask.refl.refine_1 => unfold judgeSetEventMask; split <;> rfl
  case setEventMask.refl.refine_2 =>
    intro _
    unfold judgeSetEventMask
    split
    · exact hs
    · exact m.masks s _ hs
  case softReset.refl.refine_1 => rfl
  case softReset.refl.refine_2 => exact fun _ => m.softReset s hs
  case linkControl.refl.refine_1 =>
    unfold judgeLinkControl
    split
    · rfl
    · split
      · exact congrArg ServicePort.frame (applyLinkControl_sp _ _ _ _)
      · rfl
  case linkControl.refl.refine_2 =>
    intro hb
    unfold judgeLinkControl
    split
    · exact hs
    · next ha =>
      split
      · exact m.linkControl s _ _ _ hs (by simpa using ha) hb
      · exact hs
  case putOpcodeEntry.refl.refine_1 =>
    unfold judgePutOpcodeEntry
    split
    · rfl
    · split
      · rfl
      · split
        · rfl
        · split <;> rfl
  case putOpcodeEntry.refl.refine_2 =>
    intro _
    unfold judgePutOpcodeEntry
    split
    · exact hs
    · next ha =>
      split
      · exact hs
      · next e he =>
        split
        · next i hi => exact m.entry s i e hs (by simpa using ha) (.inl hi)
        · next hi =>
          split
          · next i hf => exact m.entry s i e hs (by simpa using ha) (.inr ⟨hi, hf⟩)
          · exact hs
  case getOpcodeEntry.refl.refine_1 => rfl
  case getOpcodeEntry.refl.refine_2 => exact fun _ => hs
  case dropOpcodeEntry.refl.refine_1 =>
    unfold judgeDropOpcodeEntry
    split
    · rfl
    · split <;> rfl
  case dropOpcodeEntry.refl.refine_2 =>
    intro _
    unfold judgeDropOpcodeEntry
    split
    · exact hs
    · next ha =>
      split
      · exact hs
      · next i hi => exact m.dropEntry s i hs (by simpa using ha)
  case putSlot.refl.refine_1 =>
    unfold judgePutSlot
    split
    · rfl
    · split <;> rfl
  case putSlot.refl.refine_2 =>
    intro _
    unfold judgePutSlot
    split
    · exact hs
    · next ha =>
      split
      · exact m.slot s _ _ hs (by simpa using ha)
      · exact hs
  case getSlot.refl.refine_1 => rfl
  case getSlot.refl.refine_2 => exact fun _ => hs
  case putStage.refl.refine_1 =>
    unfold judgePutStage
    split
    · rfl
    · split <;> rfl
  case putStage.refl.refine_2 =>
    intro _
    unfold judgePutStage
    split
    · exact hs
    · next ha =>
      split
      · next hg => exact m.stage s _ _ _ hs (by simpa using ha) hg
      · exact hs
  case getStage.refl.refine_1 => rfl
  case getStage.refl.refine_2 => exact fun _ => hs
  case putSequence.refl.refine_1 =>
    unfold judgePutSequence
    split
    · rfl
    · split <;> rfl
  case putSequence.refl.refine_2 =>
    intro _
    unfold judgePutSequence
    split
    · exact hs
    · next ha =>
      split
      · next hn => exact m.sequence s _ hs (by simpa using ha) hn.1 hn.2
      · exact hs
  case putCaptureSetup.refl.refine_1 =>
    unfold judgePutCaptureSetup
    split
    · rfl
    · split <;> rfl
  case putCaptureSetup.refl.refine_2 =>
    intro _
    unfold judgePutCaptureSetup
    split
    · exact hs
    · next ha =>
      split
      · next hc => exact m.setup s _ _ hs (by simpa using ha) hc
      · exact hs
  case getCaptureSetup.refl.refine_1 => rfl
  case getCaptureSetup.refl.refine_2 => exact fun _ => hs
  case forceTrigger.refl.refine_1 =>
    unfold judgeForceTrigger
    split
    · exact (happening_quiet (declareTrigger_quiet _ _)).frame
    · rfl
  case forceTrigger.refl.refine_2 =>
    intro _
    unfold judgeForceTrigger
    split
    · next hw => exact m.forces s hs hw
    · exact hs
  case arm.refl.refine_1 =>
    unfold judgeArm
    dsimp only
    split
    · exact (settle_quiet _ _).frame.trans (by simp)
    · rfl
  case arm.refl.refine_2 =>
    intro _
    unfold judgeArm
    dsimp only
    split
    · next ha =>
      unfold armStatus at ha
      split at ha
      · cases ha
      · next hact =>
        split at ha
        · next k o hk ho =>
          split at ha
          · cases ha
          · split at ha
            · cases ha
            · next hm =>
              split at ha
              · cases ha
              · next hu =>
                rw [hk, ho]
                refine m.arms s o k hs (by simpa using hact) ?_
                intro hkt
                subst hkt
                simp at hm hu
                exact ⟨hm, hu⟩
        · cases ha
    · exact hs
  case stop.refl.refine_1 =>
    unfold judgeStop
    split
    · exact (happening_quiet (completeSession_quiet _ _)).frame
    · rfl
  case stop.refl.refine_2 =>
    intro _
    unfold judgeStop
    split
    · next ha => exact m.stops s hs ha
    · exact hs
  case clearTrace.refl.refine_1 =>
    unfold judgeClearTrace
    split
    · rfl
    · exact (happening_quiet (emptyTrace_quiet _)).frame
  case clearTrace.refl.refine_2 =>
    intro _
    unfold judgeClearTrace
    split
    · exact hs
    · next ha => exact m.clears s hs (by simpa using ha)
  case readRecord.refl.refine_1 => unfold judgeReadRecord; split <;> rfl
  case readRecord.refl.refine_2 =>
    intro _
    unfold judgeReadRecord
    split
    · exact hs
    · next h hh => exact m.copiesRecord s h hs hh
  case peekRecord.refl.refine_1 => unfold judgePeekRecord; split <;> rfl
  case peekRecord.refl.refine_2 => intro _; unfold judgePeekRecord; split <;> exact hs
  case skipRecords.refl.refine_1 =>
    unfold judgeSkipRecords
    split
    · rfl
    · refine (settle_quiet _ _).frame.trans ?_
      unfold skipRecords
      split <;> rfl
  case skipRecords.refl.refine_2 =>
    intro _
    unfold judgeSkipRecords
    split
    · exact hs
    · exact m.skips s _ hs (Nat.min_le_right _ _)
  case mark.refl.refine_1 =>
    unfold judgeMark
    split
    · rfl
    · split <;> rfl
  case mark.refl.refine_2 =>
    intro _
    unfold judgeMark
    split
    · exact hs
    · next hm =>
      split
      · exact hs
      · next hu => exact m.marks s hs (by simpa using hm) hu
  case rewind.refl.refine_1 =>
    unfold judgeRewind
    split
    · rfl
    · exact (settle_quiet _ _).frame
  case rewind.refl.refine_2 =>
    intro _
    unfold judgeRewind
    split
    · exact hs
    · next k hk => exact m.rewinds s k hs hk
  case release.refl.refine_1 =>
    unfold judgeRelease
    split
    · rfl
    · exact (settle_quiet _ _).frame
  case release.refl.refine_2 =>
    intro _
    unfold judgeRelease
    split
    · exact hs
    · next k hk => exact m.releases s k hs hk
  case setWatermark.refl.refine_1 => unfold judgeSetWatermark; split <;> rfl
  case setWatermark.refl.refine_2 =>
    intro _
    unfold judgeSetWatermark
    split
    · exact hs
    · next hw => exact m.watermark s _ hs (by omega)
  case setTimebase.refl.refine_1 =>
    unfold judgeSetTimebase
    split
    · rfl
    · split <;> rfl
  case setTimebase.refl.refine_2 =>
    intro _
    unfold judgeSetTimebase
    split
    · exact hs
    · next ha =>
      split
      · exact hs
      · next new hn => exact m.timebase s _ new hs (by simpa using ha) hn
  case syncNow.refl.refine_1 =>
    unfold judgeSyncNow
    split
    · exact congrArg ServicePort.frame (emitSync_sp s)
    · rfl
  case syncNow.refl.refine_2 =>
    intro _
    unfold judgeSyncNow
    split
    · next hr => exact m.syncs s hs hr
    · exact hs
  case readTime.refl.refine_1 => rfl
  case readTime.refl.refine_2 => exact fun _ => hs
  case tallyControl.refl.refine_1 => unfold judgeTallyControl; split <;> rfl
  case tallyControl.refl.refine_2 =>
    intro _
    unfold judgeTallyControl
    split
    · exact hs
    · exact m.tallyEnable s _ hs
  case tallySnapshot.refl.refine_1 => unfold judgeTallySnapshot; split <;> rfl
  case tallySnapshot.refl.refine_2 =>
    intro _
    unfold judgeTallySnapshot
    split
    · exact hs
    · exact m.snapshot s _ hs
  case readTally.refl.refine_1 => rfl
  case readTally.refl.refine_2 => exact fun _ => hs

/-- A property every move keeps, and which looks at no waiting command, is kept by every step. -/
theorem Moves.step {P : State → Prop} (m : Moves P) (waiting : ∀ (s : State) l, P s → P { s with pending := l })
    {s t : State} (hs : P s) (h : step s = .next t) : P t := by
  unfold Machine.step at h
  split at h
  · cases h; exact hs
  · next c rest _ => exact m.exec (waiting s rest hs) h

end Sys2Proof.Machine
end

