-- ==== Sys2Proof/Laws/PerInstr.lean ====
section
/-! SUPPORT. Statements made per command: each command's bytes carry exactly the argument bytes its code calls for
(R158, R190). -/

namespace Sys2Proof.Laws.ServiceLength
open Sys2Proof

/-- The bytes that spell a command are a command code and as many argument bytes as the code calls for. -/
def Statement (i : Instr) : Prop :=
  ∀ bytes, i.serviceBytes = some bytes →
    ∃ code args, bytes = code :: args ∧ commandArgs code = some args.length

theorem of_unspelled {i : Instr} (h : i.serviceBytes = none) : Statement i := by
  intro bytes hb; rw [h] at hb; cases hb

theorem of_spelled {i : Instr} {code : Byte} {args : List Byte} (h : i.serviceBytes = some (code :: args))
    (hl : commandArgs code = some args.length) : Statement i := by
  intro bytes hb; rw [h] at hb; cases hb; exact ⟨code, args, rfl, hl⟩

theorem powerOn : Statement .powerOn := of_unspelled rfl
theorem powerOnResetEnd : Statement .powerOnResetEnd := of_unspelled rfl
theorem resetNAsserted : Statement .resetNAsserted := of_unspelled rfl
theorem resetNReleased : Statement .resetNReleased := of_unspelled rfl
theorem powerLoss : Statement .powerLoss := of_unspelled rfl
theorem selectAsserted (n : Fin 4) : Statement (.selectAsserted n) := of_unspelled rfl
theorem selectNegated (n : Fin 4) : Statement (.selectNegated n) := of_unspelled rfl
theorem samplingEdge (link : LinkLevels) : Statement (.samplingEdge link) := of_unspelled rfl
theorem opcodeComplete (lanes : LinkLanes) : Statement (.opcodeComplete lanes) := of_unspelled rfl
theorem addressComplete (lanes : LinkLanes) : Statement (.addressComplete lanes) := of_unspelled rfl
theorem waitDone (lanes : LinkLanes) : Statement (.waitDone lanes) := of_unspelled rfl
theorem dataByteComplete (lanes : LinkLanes) : Statement (.dataByteComplete lanes) := of_unspelled rfl
theorem trailPulse (lanes : LinkLanes) : Statement (.trailPulse lanes) := of_unspelled rfl
theorem opaquePulse (lanes : LinkLanes) : Statement (.opaquePulse lanes) := of_unspelled rfl
theorem timebaseTick : Statement .timebaseTick := of_unspelled rfl
theorem stageTimeout : Statement .stageTimeout := of_unspelled rfl
theorem holdExpired : Statement .holdExpired := of_unspelled rfl
theorem syncPulseEnd : Statement .syncPulseEnd := of_unspelled rfl
theorem xtPulseEnd : Statement .xtPulseEnd := of_unspelled rfl
theorem syncEdge : Statement .syncEdge := of_unspelled rfl
theorem xtEdge : Statement .xtEdge := of_unspelled rfl
theorem sSelAsserted : Statement .sSelAsserted := of_unspelled rfl
theorem sSelNegated : Statement .sSelNegated := of_unspelled rfl
theorem argumentByte (input : ServiceInput) : Statement (.argumentByte input) := of_unspelled rfl
theorem unknownCommand (code : Byte) : Statement (.unknownCommand code) := of_unspelled rfl
theorem replyReady : Statement .replyReady := of_unspelled rfl
theorem replyComplete : Statement .replyComplete := of_unspelled rfl
theorem status : Statement .status := of_spelled rfl rfl
theorem nextEvent : Statement .nextEvent := of_spelled rfl rfl
theorem setEventMask (kinds : BitVec 16) : Statement (.setEventMask kinds) := of_spelled rfl rfl
theorem softReset : Statement .softReset := of_spelled rfl rfl
theorem linkControl (decode idle opcodeLanes : Byte) : Statement (.linkControl decode idle opcodeLanes) := of_spelled rfl rfl
theorem putOpcodeEntry (args : OpcodeEntryArgs) : Statement (.putOpcodeEntry args) := of_spelled rfl rfl
theorem getOpcodeEntry (form value : Byte) : Statement (.getOpcodeEntry form value) := of_spelled rfl rfl
theorem dropOpcodeEntry (opcode : Byte) : Statement (.dropOpcodeEntry opcode) := of_spelled rfl rfl
theorem putSlot (args : SlotArgs) : Statement (.putSlot args) := of_spelled rfl rfl
theorem getSlot (slot : Byte) : Statement (.getSlot slot) := of_spelled rfl rfl
theorem putStage (args : StageArgs) : Statement (.putStage args) := of_spelled rfl rfl
theorem getStage (stage : Byte) : Statement (.getStage stage) := of_spelled rfl rfl
theorem putSequence (count : Byte) : Statement (.putSequence count) := of_spelled rfl rfl
theorem putCaptureSetup (args : SetupArgs) : Statement (.putCaptureSetup args) := of_spelled rfl rfl
theorem getCaptureSetup : Statement .getCaptureSetup := of_spelled rfl rfl
theorem forceTrigger : Statement .forceTrigger := of_spelled rfl rfl
theorem arm (traceOption startOption : Byte) : Statement (.arm traceOption startOption) := of_spelled rfl rfl
theorem stop : Statement .stop := of_spelled rfl rfl
theorem clearTrace : Statement .clearTrace := of_spelled rfl rfl
theorem readRecord : Statement .readRecord := of_spelled rfl rfl
theorem peekRecord : Statement .peekRecord := of_spelled rfl rfl
theorem skipRecords (count : BitVec 16) : Statement (.skipRecords count) := of_spelled rfl rfl
theorem mark : Statement .mark := of_spelled rfl rfl
theorem rewind : Statement .rewind := of_spelled rfl rfl
theorem release : Statement .release := of_spelled rfl rfl
theorem setWatermark (level : BitVec 16) : Statement (.setWatermark level) := of_spelled rfl rfl
theorem setTimebase (args : TimebaseArgs) : Statement (.setTimebase args) := of_spelled rfl rfl
theorem syncNow : Statement .syncNow := of_spelled rfl rfl
theorem readTime : Statement .readTime := of_spelled rfl rfl
theorem tallyControl (choice : Byte) : Statement (.tallyControl choice) := of_spelled rfl rfl
theorem tallySnapshot (choice : Byte) : Statement (.tallySnapshot choice) := of_spelled rfl rfl
theorem readTally (row : Byte) : Statement (.readTally row) := of_spelled rfl rfl

end Sys2Proof.Laws.ServiceLength
end

