-- ==== Sys2Proof/Laws/Port.lean ====
section
/-! SUPPORT. The taking of a service command and the edges of S_CLK, as the provers cite them. -/

namespace Sys2Proof.Machine
open Sys2Proof

/-! ### The taking -/

/-- A command whose other bytes have been received is taken. -/
theorem takeCommand_received {i : Instr} {code : Byte} {args : List Byte} {s : State}
    (judge : State → Reply × State) (h : Received code args s) (hb : i.serviceBytes = some (code :: args)) :
    takeCommand i judge s = setReply (judge s).1 (lastByteOf i) (judge s).2 := by
  have hl : lastByteOf i = (code :: args).getLastD 0 := by simp only [lastByteOf, hb, Option.getD_some]
  have ha : awaits i s = true := by
    unfold awaits
    rw [hb, hl]
    exact decide_eq_true h
  unfold takeCommand
  rw [if_pos ha]

/-- A command that is not awaited is not taken. -/
theorem takeCommand_unawaited {i : Instr} {bytes : List Byte} {s : State} (judge : State → Reply × State)
    (hb : i.serviceBytes = some bytes)
    (h : s.sp.frame ≠ .command bytes.dropLast ∨ ¬s.sp.bits <+: byteBits (lastByteOf i)) :
    takeCommand i judge s = s := by
  have ha : awaits i s = false := by
    unfold awaits
    rw [hb]
    exact decide_eq_false fun k => h.elim (· k.1) (· k.2)
  simp [takeCommand, ha]

/-- The answer of a taken command is what its judgement gives. -/
theorem answers_of_judge {i : Instr} {code : Byte} {args : List Byte} {s : State} {r : Reply} {t : State}
    (judge : State → Reply × State) (h : Received code args s) (hb : i.serviceBytes = some (code :: args))
    (he : exec i s = .next (takeCommand i judge s)) (hj : judge s = (r, t)) : Answers i s r t := by
  unfold Answers; rw [he, takeCommand_received judge h hb, hj]

/-- Nothing changed, nothing to judge. -/
@[simp] theorem settle_self (s : State) : settle s s = s := by simp [settle]

/-! ### Bits and edges (R156) -/

@[simp] theorem byteBits_length (b : Byte) : (byteBits b).length = 8 := rfl

/-- Eight bits make the byte whose bits they are. -/
@[simp] theorem bitsByte_byteBits (b : Byte) : bitsByte (byteBits b) = b := by
  revert b; decide

/-- What a rising edge can do: it takes one more bit into a byte of COMMAND or REPLY, collects a byte, has a byte of
the reply phase sent, or, in the other states, nothing. -/
theorem rising_cases {d : Bool} {sp t : ServicePort} (h : sp.rising d = some t) :
    ((∃ b, sp.frame = .command b) ∧ sp.bits.length < 7 ∧ t = { sp with bits := sp.bits ++ [d] }) ∨
    (∃ b more, sp.frame = .command b ∧ collectByte b (bitsByte (sp.bits ++ [d])) = some more ∧
      t = { sp with frame := .command more, bits := [] }) ∨
    (sp.frame = .reply ∧ sp.bits.length < 7 ∧ t = { sp with bits := sp.bits ++ [d], byteAt := sp.byteBegun }) ∨
    (sp.frame = .reply ∧ ¬sp.bits.length < 7 ∧ sp.byteBegun = none ∧ t = sp.pendingByteSent) ∨
    (∃ k, sp.frame = .reply ∧ sp.byteBegun = some k ∧ k + 1 < sp.replyBytes.length ∧
      t = { sp with bits := [], byteAt := some (k + 1) }) ∨
    (sp.frame ≠ .reply ∧ (∀ b, sp.frame ≠ .command b) ∧ t = sp) := by
  unfold ServicePort.rising at h
  split at h
  · next b hf =>
    split at h
    · next hl => cases h; exact .inl ⟨⟨b, hf⟩, hl, rfl⟩
    · split at h
      · next more hm => cases h; exact .inr (.inl ⟨b, more, hf, hm, rfl⟩)
      · cases h
  · next hf =>
    split at h
    · next hl => cases h; exact .inr (.inr (.inl ⟨hf, hl, rfl⟩))
    · split at h
      · next hn => cases h; exact .inr (.inr (.inr (.inl ⟨hf, by assumption, hn, rfl⟩)))
      · next k hk =>
        split at h
        · next hl => cases h; exact .inr (.inr (.inr (.inr (.inl ⟨k, hf, hk, hl, rfl⟩))))
        · cases h
  · next h1 h2 => cases h; exact .inr (.inr (.inr (.inr (.inr ⟨h2, h1, rfl⟩))))

/-- A byte of the reply is in progress after its first bit if it was before, or if the reply is ready. -/
theorem byteBegun_cases (sp : ServicePort) :
    sp.byteBegun = sp.byteAt ∨ (sp.byteBegun = some 0 ∧ sp.bits = [] ∧ sp.byteAt = none ∧ sp.ready = true) := by
  unfold ServicePort.byteBegun
  split
  · next h => exact .inr ⟨rfl, h⟩
  · exact .inl rfl

/-! A pending byte changes the bits, the count and whether the reply is ready, and no more. -/

section
variable (sp : ServicePort)
@[simp] theorem pendingByteSent_frame : sp.pendingByteSent.frame = sp.frame := rfl
@[simp] theorem pendingByteSent_reply : sp.pendingByteSent.reply = sp.reply := rfl
@[simp] theorem pendingByteSent_bits : sp.pendingByteSent.bits = [] := rfl
@[simp] theorem pendingByteSent_byteAt : sp.pendingByteSent.byteAt = sp.byteAt := rfl
@[simp] theorem pendingByteSent_out : sp.pendingByteSent.out = sp.out := rfl
@[simp] theorem pendingByteSent_mask : sp.pendingByteSent.mask = sp.mask := rfl
@[simp] theorem pendingByteSent_queue : sp.pendingByteSent.queue = sp.queue := rfl
@[simp] theorem pendingByteSent_inFlight : sp.pendingByteSent.inFlight = sp.inFlight := rfl
@[simp] theorem pendingByteSent_pendingSent : sp.pendingByteSent.pendingSent = sp.pendingSent + 1 := rfl
@[simp] theorem pendingByteSent_ready :
    sp.pendingByteSent.ready = (sp.ready || decide (16 ≤ sp.pendingSent + 1)) := rfl
end

/-- A falling edge changes the level of S_DO alone. -/
theorem falling_eq (sp : ServicePort) : ∃ v, sp.falling = { sp with out := v } := by
  unfold ServicePort.falling
  split
  · exact ⟨sp.out, rfl⟩
  · exact ⟨sp.out, rfl⟩
  · exact ⟨_, rfl⟩

end Sys2Proof.Machine
end

