-- ==== Sys2Proof/Laws/Session.lean ====
section
/-! SUPPORT. What offers, completions and triggers do to the session (`SessionMove`), the Trigger Sequencer's
runtime state through hits, groups and expiries (`SequencerSound`, R61 to R75). -/

namespace Sys2Proof.Machine
open Sys2Proof

/-! ### The session's moves (R82, R63) -/

/-- Either the capture state stays, or moves from PRETRIG to POSTTRIG, with the sequencer as it was; or the
session is complete and the sequencer IDLE. -/
def SessionMove (s t : State) : Prop :=
  (t.seq = s.seq ∧ (t.cc.state = s.cc.state ∨ (s.cc.state = .pretrig ∧ t.cc.state = .posttrig))) ∨
  (t.seq = s.seq.toIdle ∧ ∃ c, t.cc.state = .complete c)

theorem SessionMove.stay {s t : State} (h1 : t.seq = s.seq) (h2 : t.cc.state = s.cc.state) : SessionMove s t :=
  .inl ⟨h1, .inl h2⟩

/-- A move from a state that differs from `s` in neither the sequencer nor the capture state. -/
theorem SessionMove.of_eq {s t u : State} (h1 : t.seq = s.seq) (h2 : t.cc.state = s.cc.state)
    (h : SessionMove t u) : SessionMove s u := by
  unfold SessionMove at h ⊢
  rwa [h1, h2] at h

theorem discardOldest_session (k : Nat) (s : State) :
    (discardOldest k s).seq = s.seq ∧ (discardOldest k s).cc.state = s.cc.state := by
  unfold discardOldest
  split <;> simp [removeOldest]

theorem appendGap_session (s : State) :
    (appendGap s).seq = s.seq ∧ (appendGap s).cc.state = s.cc.state := by
  unfold appendGap
  split <;> exact ⟨rfl, rfl⟩

theorem offer_session (r : Record) (pre : Bool) (s : State) :
    (offer r pre s).2.seq = s.seq ∧ (offer r pre s).2.cc.state = s.cc.state := by
  unfold offer
  split
  · next k _ =>
    have h : (if k = 0 then s else discardOldest k s).seq = s.seq ∧
        (if k = 0 then s else discardOldest k s).cc.state = s.cc.state := by
      split
      · exact ⟨rfl, rfl⟩
      · exact discardOldest_session k s
    have g := appendGap_session (if k = 0 then s else discardOldest k s)
    exact ⟨g.1.trans h.1, g.2.trans h.2⟩
  · exact ⟨rfl, rfl⟩

theorem loseFrame_session (n : BitVec 16) (time : Time) (s : State) :
    (loseFrame n time s).seq = s.seq ∧ (loseFrame n time s).cc.state = s.cc.state := by
  unfold loseFrame
  simp

theorem completeSession_session (c : Cause) (s : State) :
    (completeSession c s).seq = s.seq.toIdle ∧ (completeSession c s).cc.state = .complete c := by
  have h : (completionGap { s with cc := s.cc.leaveFrame }).seq = s.seq := by
    unfold completionGap
    split
    · exact (appendGap_session _).1
    · rfl
  unfold completeSession
  simp [h]

theorem completeSession_move (c : Cause) (s : State) : SessionMove s (completeSession c s) :=
  .inr ⟨(completeSession_session c s).1, c, (completeSession_session c s).2⟩

theorem triggerPlaced_move {s : State} (h : s.cc.state = .pretrig) : SessionMove s (triggerPlaced s) := by
  unfold triggerPlaced
  split
  · exact completeSession_move _ s
  · exact .inl ⟨rfl, .inr ⟨h, rfl⟩⟩

theorem refusedForRoom_move (s : State) : SessionMove s (refusedForRoom s) := by
  unfold refusedForRoom
  split
  · exact completeSession_move _ s
  · exact .stay rfl rfl

theorem countPost_move (s : State) : SessionMove s (countPost s) := by
  unfold countPost
  dsimp only
  split
  · exact .inr ⟨(completeSession_session _ _).1, _, (completeSession_session _ _).2⟩
  · exact .stay rfl rfl

theorem offerFrame_move (r : FrameRecord) (trigger : Bool) (s : State) :
    SessionMove s (offerFrame r trigger s) := by
  unfold offerFrame
  split
  · next hp =>
    have ho := offer_session (.frame r) (!trigger) s
    have h : (if (offer (.frame r) (!trigger) s).1 then (offer (.frame r) (!trigger) s).2
        else loseFrame r.number r.startTime (offer (.frame r) (!trigger) s).2).seq = s.seq ∧
        (if (offer (.frame r) (!trigger) s).1 then (offer (.frame r) (!trigger) s).2
        else loseFrame r.number r.startTime (offer (.frame r) (!trigger) s).2).cc.state = s.cc.state := by
      split
      · exact ho
      · exact ⟨(loseFrame_session ..).1.trans ho.1, (loseFrame_session ..).2.trans ho.2⟩
    dsimp only
    split
    · exact .of_eq h.1 h.2 (triggerPlaced_move (h.2.trans hp))
    · exact .stay h.1 h.2
  all_goals try exact .stay rfl rfl
  all_goals
    have ho := offer_session (.frame r) false s
    have hl := loseFrame_session r.number r.startTime (offer (.frame r) false s).2
    dsimp only
    split
    · first | exact .stay ho.1 ho.2 | exact .of_eq ho.1 ho.2 (countPost_move _)
    · exact .of_eq (hl.1.trans ho.1) (hl.2.trans ho.2) (refusedForRoom_move _)

theorem offerMarker_move (src : TriggerSource) (s : State) : SessionMove s (offerMarker src s) := by
  have ho := offer_session (.marker s.cc.nextFrame s.tb.time src.markerCause) false s
  unfold offerMarker
  dsimp only
  split
  · next hp => exact .of_eq ho.1 ho.2 (triggerPlaced_move (ho.2.trans hp))
  all_goals try exact .stay rfl rfl
  all_goals
    split
    · exact .stay ho.1 ho.2
    · exact .of_eq ho.1 ho.2 (refusedForRoom_move _)

theorem placeTrigger_move (src : TriggerSource) (s : State) : SessionMove s (placeTrigger src s) := by
  unfold placeTrigger
  split
  · split
    · exact .stay rfl rfl
    · exact offerMarker_move src s
  · exact offerMarker_move src s

theorem captureFrameEnd_move (ctx : FrameContext) (hits : BitVec 8) (s : State) :
    SessionMove s (captureFrameEnd ctx hits s) := by
  have hm : ∀ f, SessionMove s (memberFrameEnd ctx hits f s) := by
    intro f
    unfold memberFrameEnd
    dsimp only
    split
    · have h := offerFrame_move (frameRecord ctx (f.number.getD 0) hits s.seq.reported f.pending) f.pending
        { s with cc := { s.cc with seen := satAdd Config.max32 s.cc.seen 1, qualified := satAdd Config.max32 s.cc.qualified 1 } }
      exact h
    · exact .stay rfl rfl
  unfold captureFrameEnd
  dsimp only
  split
  · split
    · exact hm _
    · exact .stay rfl rfl
  · exact .stay rfl rfl

/-! ### The judgements after a happening leave the session alone -/

theorem settle_session (s t : State) : (settle s t).seq = t.seq ∧ (settle s t).cc = t.cc := by
  have hw : ∀ u : State, (judgeWatermark u).seq = u.seq ∧ (judgeWatermark u).cc = u.cc := by
    intro u
    unfold judgeWatermark
    split <;> [skip; split] <;> [skip; split; split] <;> simp
  have hh : ∀ u : State, (judgeHold u).seq = u.seq ∧ (judgeHold u).cc = u.cc := by
    intro u
    unfold judgeHold assertHold releaseHold
    split
    · split <;> simp
    · split <;> [skip; split] <;> simp
  have h : (if s.unread = t.unread then t else judgeWatermark t).seq = t.seq ∧
      (if s.unread = t.unread then t else judgeWatermark t).cc = t.cc := by
    split
    · exact ⟨rfl, rfl⟩
    · exact hw t
  unfold settle
  dsimp only
  generalize (if s.unread = t.unread then t else judgeWatermark t) = judged at h ⊢
  split
  · exact h
  · exact ⟨(hh judged).1.trans h.1, (hh judged).2.trans h.2⟩

/-! ### The sequencer -/

/-- The stage count and the required counts are in their ranges (R57, R58, R60). -/
def SequencerConfigured (q : Sequencer) : Prop :=
  1 ≤ q.count ∧ q.count ≤ 4 ∧ ∀ k : Fin 4, 1 ≤ (q.stages.get k).required

theorem SequencerSound.configured {s : State} (h : SequencerSound s) : SequencerConfigured s.seq :=
  ⟨h.1, h.2.1, h.2.2.1⟩

/-- Only the sequencer and the capture state count. -/
theorem sequencerSound_of_eq {s t : State} (h1 : t.seq = s.seq) (h2 : t.cc.state = s.cc.state)
    (h : SequencerSound s) : SequencerSound t := by
  unfold SequencerSound at h ⊢
  rwa [h1, h2]

/-- IDLE is sound in every capture state (R61, R63). -/
theorem sequencerSound_idle {t : State} {q : Sequencer} (hq : SequencerConfigured q) (h : t.seq = q.toIdle) :
    SequencerSound t := by
  unfold SequencerSound
  rw [h]
  exact ⟨hq.1, hq.2.1, hq.2.2, (nomatch ·), fun _ => ⟨rfl, rfl, rfl⟩, (nomatch ·), fun h => absurd rfl h⟩

/-- A stage just entered is sound in a storing state (R62, R66, R67, R75). -/
theorem sequencerSound_enter {t : State} {q : Sequencer} {k : Fin 4} (hq : SequencerConfigured q)
    (hk : k.val < q.count) (h : t.seq = q.enter k) (hs : t.cc.state.storing = true) : SequencerSound t := by
  unfold SequencerSound
  rw [h]
  exact ⟨hq.1, hq.2.1, hq.2.2, fun _ => ⟨hk, hq.2.2 k⟩, (nomatch ·), (nomatch ·), fun _ => hs⟩

theorem sequencerSound_triggered {t : State} {q : Sequencer} (hq : SequencerConfigured q)
    (h : t.seq = q.toTriggered) (hs : t.cc.state.storing = true) : SequencerSound t := by
  unfold SequencerSound
  rw [h]
  exact ⟨hq.1, hq.2.1, hq.2.2, (nomatch ·), (nomatch ·), fun _ => ⟨rfl, rfl⟩, fun _ => hs⟩

/-- A session's move keeps the sequencer sound (R63, R82). -/
theorem SessionMove.sequencerSound {s t : State} (h : SessionMove s t) (hs : SequencerSound s) :
    SequencerSound t := by
  rcases h with ⟨h1, h2 | ⟨h2, h3⟩⟩ | ⟨h1, c, h2⟩
  · exact sequencerSound_of_eq h1 h2 hs
  · obtain ⟨a1, a2, a3, a4, a5, a6, -⟩ := hs
    unfold SequencerSound
    rw [h1, h3]
    exact ⟨a1, a2, a3, a4, a5, a6, fun _ => rfl⟩
  · exact sequencerSound_idle hs.configured h1

theorem pulseXt_session (s : State) : (pulseXt s).seq = s.seq ∧ (pulseXt s).cc = s.cc := by
  unfold pulseXt
  split
  · split <;> exact ⟨rfl, rfl⟩
  · exact ⟨rfl, rfl⟩

/-- A declaration in a storing state leaves the sequencer sound, whatever count it had (R74, R75). -/
theorem declareTrigger_sequencerSound (src : TriggerSource) {s : State} (hq : SequencerConfigured s.seq)
    (hs : s.cc.state.storing = true) (hw : s.seq.state ≠ .idle) : SequencerSound (declareTrigger src s) := by
  unfold declareTrigger
  dsimp only
  have hp := placeTrigger_move src (raiseEvent (.triggered src (satAdd Config.max16 s.seq.trigCount 1))
    { s with seq := { s.seq with trigCount := satAdd Config.max16 s.seq.trigCount 1 } })
  generalize placeTrigger src _ = u at hp ⊢
  have hx := pulseXt_session u
  generalize pulseXt u = v at hx ⊢
  unfold SessionMove at hp
  simp only [raiseEvent_seq, raiseEvent_cc] at hp
  rw [← hx.1, ← hx.2] at hp
  have hcfg : SequencerConfigured { s.seq with trigCount := satAdd Config.max16 s.seq.trigCount 1 } := hq
  unfold postTrigger
  rcases hp with ⟨h1, h2⟩ | ⟨h1, c, h2⟩
  · have hst : v.cc.state.storing = true := by
      rcases h2 with h2 | ⟨_, h2⟩
      · rw [h2]; exact hs
      · rw [h2]; rfl
    rw [if_neg (by rw [h1]; exact hw)]
    split
    · exact sequencerSound_enter (q := v.seq) (h1 ▸ hcfg) (by rw [h1]; exact hq.1) rfl hst
    · exact sequencerSound_triggered (q := v.seq) (h1 ▸ hcfg) rfl hst
  · rw [if_pos (by rw [h1]; rfl)]
    exact sequencerSound_idle hcfg h1

/-- A completed stage leaves the sequencer sound, whatever count it had (R67). -/
theorem completeStage_sequencerSound (src : TriggerSource) {s : State} (hq : SequencerConfigured s.seq)
    (hs : s.cc.state.storing = true) (hw : s.seq.state ≠ .idle) : SequencerSound (completeStage src s) := by
  unfold completeStage
  split
  · next h => exact sequencerSound_enter (q := s.seq) hq h.1 rfl hs
  · exact declareTrigger_sequencerSound src hq hs hw

/-- A hit keeps the sequencer sound (R66, R67). -/
theorem takeHit_sequencerSound (hit : Fin 9) {s : State} (h : SequencerSound s) :
    SequencerSound (takeHit hit s) := by
  unfold takeHit
  split
  · next hw =>
    have hq := h.configured
    obtain ⟨a1, a2, a3, a4, a5, a6, a7⟩ := h
    have hs := a7 (by rw [hw]; decide)
    split
    · exact sequencerSound_enter (q := s.seq) (k := 0) hq a1 rfl hs
    split
    · dsimp only
      split
      · exact completeStage_sequencerSound _ hq hs (by simp [hw])
      · next hne =>
        have hlt := a4 hw
        have hne' : ¬ s.seq.occ + 1 = s.seq.current.required := hne
        refine ⟨a1, a2, a3, fun _ => ⟨hlt.1, ?_⟩, fun hi => ?_, fun hi => ?_, fun _ => hs⟩
        · show s.seq.occ + 1 < s.seq.current.required
          omega
        · simp [hw] at hi
        · simp [hw] at hi
    · exact ⟨a1, a2, a3, a4, a5, a6, a7⟩
  · exact h

theorem takeGroup_sequencerSound (start : Nat) (group : BitVec 8) {s : State} (h : SequencerSound s) :
    SequencerSound (takeGroup start group s) := by
  have hf : ∀ (l : List (Fin 9)) (t : State), SequencerSound t →
      SequencerSound (l.foldl (fun t h => takeHit h t) t) := by
    intro l
    induction l with
    | nil => exact fun t ht => ht
    | cons a rest ih => exact fun t ht => ih _ (takeHit_sequencerSound a ht)
  unfold takeGroup
  split
  · exact hf _ _ h
  · exact h

theorem evaluate_sequencerSound (point : Slot → SlotProgress → SlotProgress × Bool) {s : State}
    (h : SequencerSound s) : SequencerSound (evaluate point s) := by
  unfold evaluate
  split
  · exact h
  · exact takeGroup_sequencerSound _ _ (sequencerSound_of_eq rfl rfl h)

/-- An expiry keeps the sequencer sound (R71). -/
theorem expireStage_sequencerSound {s : State} (h : SequencerSound s) (hw : s.seq.state = .watching) :
    SequencerSound (expireStage s) := by
  have hs := h.2.2.2.2.2.2 (by rw [hw]; decide)
  have hq := h.configured
  unfold expireStage
  dsimp only
  split
  · exact sequencerSound_enter (q := s.seq) (k := 0) hq h.1 (by simp) (by simpa using hs)
  · exact completeStage_sequencerSound _ (by simpa using hq) (by simpa using hs) (by simp [hw])

theorem settle_sequencerSound (s : State) {t : State} (h : SequencerSound t) : SequencerSound (settle s t) :=
  sequencerSound_of_eq (settle_session s t).1 (by rw [(settle_session s t).2]) h

end Sys2Proof.Machine
end

