-- ==== Sys2Proof/Laws/PreTrigger.lean ====
section
/-! SUPPORT. The pre-trigger accounting (`PreTriggerSound`, R94) through every shared operation. -/

namespace Sys2Proof.Machine
open Sys2Proof

def PreKept (s t : State) : Prop := PreTriggerSound s → PreTriggerSound t

theorem PreKept.refl (s : State) : PreKept s s := id

theorem PreKept.trans {s t u : State} (h : PreKept s t) (k : PreKept t u) : PreKept s u := k ∘ h

/-- What the accounting looks at. -/
theorem preKept_of_eq {s t : State} (h1 : t.cc.state = s.cc.state) (h2 : t.cc.setup = s.cc.setup)
    (h3 : t.cc.preCount = s.cc.preCount) (h4 : t.tm.trace = s.tm.trace) : PreKept s t := by
  intro h
  unfold PreTriggerSound at h ⊢
  rwa [h1, h2, h3, h4]

theorem preRecords_append (l m : List Held) : preRecords (l ++ m) = preRecords l + preRecords m :=
  List.countP_append ..

theorem preRecords_take_drop (k : Nat) (l : List Held) :
    preRecords (l.take k) + preRecords (l.drop k) = preRecords l := by
  rw [← preRecords_append, List.take_append_drop]

/-- A session that is not active asks nothing of the accounting. -/
theorem preTriggerSound_inactive {t : State} (h : t.cc.state.isActive = false) : PreTriggerSound t := by
  refine ⟨?_, fun k => by rw [h] at k; cases k⟩
  rintro (k | k) <;> rw [k] at h <;> cases h

theorem raiseEvent_preKept (e : Event) (s : State) : PreKept s (raiseEvent e s) := by
  apply preKept_of_eq <;> simp

/-- A removal lowers the count by the pre-trigger records it takes (R94, R104). -/
theorem removeOldest_preKept (k : Nat) (s : State) : PreKept s (removeOldest k s) := by
  rintro ⟨h1, h2⟩
  refine ⟨h1, fun ha => ?_⟩
  obtain ⟨h3, h4⟩ := h2 ha
  have := preRecords_take_drop k s.tm.trace
  simp only [removeOldest]
  omega

theorem discardOldest_preKept (k : Nat) (s : State) : PreKept s (discardOldest k s) := by
  unfold discardOldest
  split
  · exact (removeOldest_preKept k s).trans (raiseEvent_preKept _ _)
  · exact removeOldest_preKept k s

theorem freeRead_preKept (s : State) : PreKept s (freeRead s) := removeOldest_preKept _ s

/-- A record without the pre-trigger indication leaves the count alone. -/
theorem appendRecord_preKept (r : Record) (s : State) : PreKept s (appendRecord r false s) := by
  rintro ⟨h1, h2⟩
  refine ⟨h1, fun ha => ?_⟩
  have := h2 ha
  simp only [appendRecord, preRecords_append]
  simpa [preRecords] using this

theorem appendGap_preKept (s : State) : PreKept s (appendGap s) := by
  unfold appendGap
  split
  · exact .refl s
  · next run _ => exact fun h => appendRecord_preKept (.gap run) s h

/-! ### Offers -/

/-- Step 1 of R106 takes at least one pre-trigger record, if one is held. -/
theorem discardsForDepth_takes {l : List Held} {k : Nat} (h : 1 ≤ preRecords l) (hk : discardsForDepth l ≤ k) :
    1 ≤ preRecords (l.take k) := by
  unfold discardsForDepth at hk
  split at hk
  · next i hi =>
    obtain ⟨hlt, hp, _⟩ := List.findIdx?_eq_some_iff_getElem.1 hi
    have hmem : l[i] ∈ l.take k := by
      rw [List.mem_take_iff_getElem]
      exact ⟨i, by omega, rfl⟩
    have : 0 < (l.take k).countP fun h => h.pre := List.countP_pos_iff.2 ⟨_, hmem, hp⟩
    exact this
  · next hi =>
    have hall : ∀ x ∈ l, x.pre = false := by
      intro x hx
      simpa using List.findIdx?_eq_none_iff.1 hi x hx
    have : preRecords l = 0 := by
      unfold preRecords
      rw [List.countP_eq_zero]
      intro x hx
      simp [hall x hx]
    omega

/-- A PRETRIG offer for which the accounting requires a discard discards at least that far (R106). -/
theorem judgeOffer_depth {units : Nat} {s : State} {k : Nat} (h : judgeOffer units true s = some k)
    (hp : s.cc.state = .pretrig) : discardsForDepth s.tm.trace ≤ k := by
  have hle : discardsForDepth s.tm.trace ≤ requiredDiscards units true s.tm := by
    unfold requiredDiscards
    simp
  unfold judgeOffer at h
  rw [hp] at h
  dsimp only at h
  generalize requiredDiscards units true s.tm = q at h hle
  split at h
  · split at h
    · cases h
    · cases h
      exact hle
  · cases h
    exact hle

theorem discardOldest_counts (k : Nat) (s : State) :
    (discardOldest k s).tm.trace = s.tm.trace.drop k ∧
    (discardOldest k s).cc.preCount = s.cc.preCount - preRecords (s.tm.trace.take k) ∧
    (discardOldest k s).cc.setup = s.cc.setup ∧ (discardOldest k s).cc.state = s.cc.state := by
  unfold discardOldest
  split <;> simp [removeOldest]

theorem appendGap_counts (s : State) :
    preRecords (appendGap s).tm.trace = preRecords s.tm.trace ∧ (appendGap s).cc.preCount = s.cc.preCount ∧
    (appendGap s).cc.setup = s.cc.setup ∧ (appendGap s).cc.state = s.cc.state := by
  unfold appendGap
  split
  · exact ⟨rfl, rfl, rfl, rfl⟩
  · refine ⟨?_, rfl, rfl, rfl⟩
    simp only [appendRecord, preRecords_append]
    rfl

/-- An offer keeps the accounting: a record not counted toward P always, one counted toward P where P is not 0
(R94, R97). -/
theorem offer_preKept (r : Record) (pre : Bool) (s : State)
    (hpre : pre = true → s.cc.state = .pretrig ∧ s.cc.setup.depth ≠ 0) : PreKept s (offer r pre s).2 := by
  intro hs
  unfold offer
  split
  · next k hk =>
    unfold grantOffer
    dsimp only
    have hd : PreTriggerSound (if k = 0 then s else discardOldest k s) := by
      split
      · exact hs
      · exact discardOldest_preKept k s hs
    cases pre with
    | false =>
      exact preKept_of_eq rfl rfl rfl rfl (appendRecord_preKept r _ (appendGap_preKept _ hd))
    | true =>
      obtain ⟨hp, hdep⟩ := hpre rfl
      obtain ⟨hm, hc⟩ := hs
      obtain ⟨he, hle⟩ := hc (by rw [hp]; rfl)
      have hroom : preRecords (s.tm.trace.drop k) < s.cc.setup.depth := by
        have hsplit := preRecords_take_drop k s.tm.trace
        by_cases hfull : s.cc.setup.depth ≤ s.cc.preCount
        · simp only [hfull, decide_true, Bool.and_self] at hk
          have := discardsForDepth_takes (l := s.tm.trace) (by omega) (judgeOffer_depth hk hp)
          omega
        · omega
      have hk' : preRecords (if k = 0 then s else discardOldest k s).tm.trace = preRecords (s.tm.trace.drop k) ∧
          (if k = 0 then s else discardOldest k s).cc.setup = s.cc.setup := by
        split
        · next h0 => subst h0; exact ⟨rfl, rfl⟩
        · exact ⟨by rw [(discardOldest_counts k s).1], (discardOldest_counts k s).2.2.1⟩
      generalize (if k = 0 then s else discardOldest k s) = t at hd hk' ⊢
      obtain ⟨g1, g2, g3, g4⟩ := appendGap_counts t
      obtain ⟨hd1, hd2⟩ := hd
      generalize appendGap t = u at g1 g2 g3 g4 ⊢
      refine ⟨?_, fun ha => ?_⟩
      · intro hst
        have : u.cc.state = .pretrig ∨ u.cc.state = .posttrig := hst
        show u.cc.setup.mode = .window
        rw [g4] at this
        rw [g3]
        exact hd1 this
      · have ha' : u.cc.state.isActive = true := ha
        rw [g4] at ha'
        obtain ⟨e1, e2⟩ := hd2 ha'
        show preRecords (u.tm.trace ++ [_]) = u.cc.preCount + 1 ∧ u.cc.preCount + 1 ≤ u.cc.setup.depth
        rw [preRecords_append, g1, g2, g3, hk'.2]
        have h1 : preRecords [({ id := u.tm.nextId, record := r, pre := true } : Held)] = 1 := rfl
        rw [h1]
        omega
  · exact hs

/-! ### Completions, triggers, hits -/

theorem loseFrame_preKept (n : BitVec 16) (time : Time) (s : State) : PreKept s (loseFrame n time s) := by
  unfold loseFrame
  apply preKept_of_eq <;> simp

theorem completeSession_preKept (c : Cause) (s : State) : PreKept s (completeSession c s) := fun _ =>
  preTriggerSound_inactive (by rw [(completeSession_session c s).2]; rfl)

theorem triggerPlaced_preKept {s : State} (hp : s.cc.state = .pretrig) : PreKept s (triggerPlaced s) := by
  unfold triggerPlaced
  split
  · exact completeSession_preKept _ s
  · rintro ⟨h1, h2⟩
    exact ⟨fun _ => h1 (.inl hp), fun _ => h2 (by rw [hp]; rfl)⟩

theorem refusedForRoom_preKept (s : State) : PreKept s (refusedForRoom s) := by
  unfold refusedForRoom
  split
  · exact completeSession_preKept _ s
  · exact .refl s

theorem countPost_preKept (s : State) : PreKept s (countPost s) := by
  unfold countPost
  dsimp only
  split
  · exact fun _ => preTriggerSound_inactive (by rw [(completeSession_session _ _).2]; rfl)
  · exact preKept_of_eq rfl rfl rfl rfl

/-- The offer of a frame's record keeps the accounting; a frame that is not the trigger frame is offered in
PRETRIG only with P not 0 (R89). -/
theorem offerFrame_preKept (r : FrameRecord) (trigger : Bool) (s : State)
    (h0 : trigger = false → s.cc.state = .pretrig → s.cc.setup.depth ≠ 0) :
    PreKept s (offerFrame r trigger s) := by
  have ho : PreKept s (offer (.frame r) false s).2 := offer_preKept _ false s (by simp)
  unfold offerFrame
  split
  · next hp =>
    have ho' : PreKept s (offer (.frame r) (!trigger) s).2 :=
      offer_preKept _ _ s (fun ht => ⟨hp, h0 (by simpa using ht) hp⟩)
    have hst := (offer_session (.frame r) (!trigger) s).2
    have h : PreKept s (if (offer (.frame r) (!trigger) s).1 then (offer (.frame r) (!trigger) s).2
        else loseFrame r.number r.startTime (offer (.frame r) (!trigger) s).2) ∧
        (if (offer (.frame r) (!trigger) s).1 then (offer (.frame r) (!trigger) s).2
        else loseFrame r.number r.startTime (offer (.frame r) (!trigger) s).2).cc.state = .pretrig := by
      split
      · exact ⟨ho', hst.trans hp⟩
      · exact ⟨ho'.trans (loseFrame_preKept _ _ _), ((loseFrame_session ..).2.trans hst).trans hp⟩
    dsimp only
    split
    · exact h.1.trans (triggerPlaced_preKept h.2)
    · exact h.1
  all_goals try exact .refl s
  all_goals
    dsimp only
    split
    · first | exact ho | exact ho.trans (countPost_preKept _)
    · exact (ho.trans (loseFrame_preKept _ _ _)).trans (refusedForRoom_preKept _)

theorem offerMarker_preKept (src : TriggerSource) (s : State) : PreKept s (offerMarker src s) := by
  have ho := offer_preKept (.marker s.cc.nextFrame s.tb.time src.markerCause) false s (by simp)
  have hst := (offer_session (.marker s.cc.nextFrame s.tb.time src.markerCause) false s).2
  unfold offerMarker
  dsimp only
  split
  · next hp => exact PreKept.trans ho (triggerPlaced_preKept (hst.trans hp))
  all_goals try exact .refl s
  all_goals
    split
    · exact ho
    · exact PreKept.trans ho (refusedForRoom_preKept _)

theorem placeTrigger_preKept (src : TriggerSource) (s : State) : PreKept s (placeTrigger src s) := by
  unfold placeTrigger
  split
  · split
    · exact preKept_of_eq rfl rfl rfl rfl
    · exact offerMarker_preKept src s
  · exact offerMarker_preKept src s

theorem pulseXt_preKept (s : State) : PreKept s (pulseXt s) := by
  unfold pulseXt
  split
  · split <;> exact preKept_of_eq rfl rfl rfl rfl
  · exact .refl s

theorem postTrigger_preKept (s : State) : PreKept s (postTrigger s) := by
  unfold postTrigger
  split
  · exact .refl s
  split <;> exact preKept_of_eq rfl rfl rfl rfl

theorem declareTrigger_preKept (src : TriggerSource) (s : State) : PreKept s (declareTrigger src s) := by
  unfold declareTrigger
  dsimp only
  refine PreKept.trans ?_ (postTrigger_preKept _)
  refine PreKept.trans ?_ (pulseXt_preKept _)
  refine PreKept.trans ?_ (placeTrigger_preKept _ _)
  refine PreKept.trans ?_ (raiseEvent_preKept _ _)
  exact preKept_of_eq rfl rfl rfl rfl

theorem completeStage_preKept (src : TriggerSource) (s : State) : PreKept s (completeStage src s) := by
  unfold completeStage
  split
  · exact preKept_of_eq rfl rfl rfl rfl
  · exact declareTrigger_preKept src s

theorem takeHit_preKept (hit : Fin 9) (s : State) : PreKept s (takeHit hit s) := by
  unfold takeHit
  split
  · split
    · exact preKept_of_eq rfl rfl rfl rfl
    split
    · have h : PreKept s { s with seq := { s.seq with occ := s.seq.occ + 1 } } := preKept_of_eq rfl rfl rfl rfl
      dsimp only
      split
      · exact h.trans (completeStage_preKept _ _)
      · exact h
    · exact .refl s
  · exact .refl s

theorem takeHits_preKept (hits : List (Fin 9)) (s : State) : PreKept s (hits.foldl (fun t h => takeHit h t) s) := by
  induction hits generalizing s with
  | nil => exact .refl s
  | cons h rest ih => exact (takeHit_preKept h s).trans (ih _)

theorem takeGroup_preKept (start : Nat) (group : BitVec 8) (s : State) : PreKept s (takeGroup start group s) := by
  unfold takeGroup
  split
  · exact takeHits_preKept _ s
  · exact .refl s

theorem evaluate_preKept (point : Slot → SlotProgress → SlotProgress × Bool) (s : State) :
    PreKept s (evaluate point s) := by
  unfold evaluate
  split
  · exact .refl s
  · next e _ =>
    exact PreKept.trans (t := { s with mu := { s.mu with eval := some (e.after point) } })
      (preKept_of_eq rfl rfl rfl rfl) (takeGroup_preKept _ _ _)

theorem expireStage_preKept (s : State) : PreKept s (expireStage s) := by
  unfold expireStage
  dsimp only
  split
  · exact (raiseEvent_preKept _ s).trans (preKept_of_eq rfl rfl rfl rfl)
  · exact (raiseEvent_preKept _ s).trans (completeStage_preKept _ _)

/-- A frame that is not the trigger frame does not qualify in PRETRIG with P = 0 (R89). -/
theorem qualifies_depth {c : Capture} {ctx : FrameContext} {hits : BitVec 8} (hm : c.setup.mode = .window)
    (hp : c.state = .pretrig) (h : qualifies c ctx hits false = true) : c.setup.depth ≠ 0 := by
  intro h0
  simp [qualifies, hm, hp, h0] at h

theorem captureFrameEnd_preKept (ctx : FrameContext) (hits : BitVec 8) (s : State) :
    PreKept s (captureFrameEnd ctx hits s) := by
  have hmf : ∀ f, PreKept s (memberFrameEnd ctx hits f s) := by
    intro f hs
    unfold memberFrameEnd
    dsimp only
    split
    · next hq =>
      refine offerFrame_preKept _ _ _ ?_ (preKept_of_eq rfl rfl rfl rfl hs)
      intro ht hp
      have hp' : s.cc.state = .pretrig := hp
      exact qualifies_depth (hs.1 (.inl hp')) hp' (by rw [ht] at hq; exact hq)
    · exact preKept_of_eq rfl rfl rfl rfl hs
  unfold captureFrameEnd
  dsimp only
  split
  · split
    · exact (hmf _).trans (preKept_of_eq rfl rfl rfl rfl)
    · exact preKept_of_eq rfl rfl rfl rfl
  · exact preKept_of_eq rfl rfl rfl rfl

theorem settle_preKept (s t : State) : PreKept t (settle s t) := by
  have hw : ∀ u : State, (judgeWatermark u).tm.trace = u.tm.trace := by
    intro u
    unfold judgeWatermark
    split <;> [skip; split] <;> [skip; split; split] <;> simp
  have hh : ∀ u : State, (judgeHold u).tm.trace = u.tm.trace := by
    intro u
    unfold judgeHold assertHold releaseHold
    split
    · split <;> simp
    · split <;> [skip; split] <;> simp
  have ht : (settle s t).tm.trace = t.tm.trace := by
    have h : (if s.unread = t.unread then t else judgeWatermark t).tm.trace = t.tm.trace := by
      split
      · rfl
      · exact hw t
    unfold settle
    dsimp only
    generalize (if s.unread = t.unread then t else judgeWatermark t) = judged at h ⊢
    split
    · exact h
    · exact (hh judged).trans h
  have hc := (settle_session s t).2
  exact preKept_of_eq (by rw [hc]) (by rw [hc]) (by rw [hc]) ht

end Sys2Proof.Machine
end

