-- ==== Sys2Proof/Laws/Queue.lean ====
section
/-! SUPPORT. The event queue's shape (R166, R168) through the Service Port's operations. -/

namespace Sys2Proof.Machine
open Sys2Proof

/-! ### Kinds -/

theorem plus_kinds (e : Event) (n : Nat) :
    (e.plus n).isRecordsLost = e.isRecordsLost ∧ (e.plus n).isCursorSkipped = e.isCursorSkipped ∧
      (e.plus n).isWatermark = e.isWatermark ∧ (e.plus n).isEventsLost = e.isEventsLost := by
  cases e <;> exact ⟨rfl, rfl, rfl, rfl⟩

theorem minus_kinds (e f : Event) :
    (e.minus f).isRecordsLost = e.isRecordsLost ∧ (e.minus f).isCursorSkipped = e.isCursorSkipped ∧
      (e.minus f).isWatermark = e.isWatermark ∧ (e.minus f).isEventsLost = e.isEventsLost := by
  cases e <;> cases f <;> exact ⟨rfl, rfl, rfl, rfl⟩

/-- What the queue's shape looks at: the kind of each entry, as four indications. -/
def kindsOf (e : Entry) : Bool × Bool × Bool × Bool :=
  (e.event.isRecordsLost, e.event.isCursorSkipped, e.event.isWatermark, e.event.isEventsLost)

theorem addInto_kinds (kind : Event → Bool) (n : Nat) (q : List Entry) :
    (addInto kind n q).map kindsOf = q.map kindsOf := by
  induction q with
  | nil => rfl
  | cons e rest ih =>
    unfold addInto
    split
    · obtain ⟨h1, h2, h3, h4⟩ := plus_kinds e.event n
      simp [kindsOf, h1, h2, h3, h4]
    · simp [ih]

/-- The shape depends on the kinds alone. -/
theorem queueSound_of_kinds {q r : List Entry} (h : r.map kindsOf = q.map kindsOf) (hq : QueueSound q) :
    QueueSound r := by
  obtain ⟨h1, h2, h3, h4, h5, h6⟩ := hq
  have hl : r.length = q.length := by simpa using congrArg List.length h
  have hc : ∀ p : Bool × Bool × Bool × Bool → Bool, r.countP (fun e => p (kindsOf e)) = q.countP fun e => p (kindsOf e) := by
    intro p
    have := congrArg (List.countP p) h
    simpa [List.countP_map, Function.comp_def] using this
  have hd : r.dropLast.map kindsOf = q.dropLast.map kindsOf := by
    rw [List.map_dropLast, List.map_dropLast, h]
  refine ⟨by omega, ?_, ?_, ?_, ?_, ?_⟩
  · intro e he
    have : kindsOf e ∈ q.dropLast.map kindsOf := hd ▸ List.mem_map_of_mem he
    obtain ⟨f, hf, hk⟩ := List.mem_map.1 this
    have := h2 f hf
    simp only [kindsOf, Prod.mk.injEq] at hk
    rw [← hk.2.2.2]; exact this
  · intro hr
    obtain ⟨e, he, hk⟩ := h3 (by omega)
    have : kindsOf e ∈ r.map kindsOf := h ▸ List.mem_map_of_mem he
    obtain ⟨f, hf, hk'⟩ := List.mem_map.1 this
    simp only [kindsOf, Prod.mk.injEq] at hk'
    exact ⟨f, hf, by rw [hk'.2.2.2]; exact hk⟩
  · have := hc fun k => k.1
    simp only [kindsOf] at this; omega
  · have := hc fun k => k.2.1
    simp only [kindsOf] at this; omega
  · have := hc fun k => k.2.2.1
    simp only [kindsOf] at this; omega

theorem addInto_queueSound {sp : ServicePort} (kind : Event → Bool) (n : Nat) (now : Time)
    (h : QueueSound sp.queue) : QueueSound (sp.addInto kind n now).queue :=
  queueSound_of_kinds (addInto_kinds kind n sp.queue) h

/-! ### Placement -/

/-- A new entry behind a queue that holds no EVENTS_LOST keeps the shape, if its own kind is not held yet. -/
theorem append_queueSound {q : List Entry} {e : Entry} (h : QueueSound q)
    (hel : q.any (fun e => e.event.isEventsLost) = false) (hlen : q.length < 15 ∨ e.event.isEventsLost = true)
    (h1 : e.event.isRecordsLost = true → q.any (fun e => e.event.isRecordsLost) = false)
    (h2 : e.event.isCursorSkipped = true → q.any (fun e => e.event.isCursorSkipped) = false)
    (h3 : e.event.isWatermark = true → q.any (fun e => e.event.isWatermark) = false) :
    QueueSound (q ++ [e]) := by
  obtain ⟨a1, a2, a3, a4, a5, a6⟩ := h
  have hno : ∀ x ∈ q, x.event.isEventsLost = false := by
    intro x hx
    simpa using List.any_eq_false.1 hel x hx
  have hcount : ∀ p : Entry → Bool, q.countP p ≤ 1 → (p e = true → q.any p = false) →
      (q ++ [e]).countP p ≤ 1 := by
    intro p hp hq
    rw [List.countP_append]
    cases hpe : p e with
    | false => simp [hpe]; omega
    | true =>
      have : q.countP p = 0 := by
        rw [List.countP_eq_zero]
        intro x hx
        simpa using List.any_eq_false.1 (hq hpe) x hx
      simp [hpe, this]
  have h15 : q.length ≤ 15 := by
    by_contra hc
    obtain ⟨x, hx, hk⟩ := a3 (by omega)
    simp [hno x hx] at hk
  refine ⟨by simp; omega, ?_, ?_, hcount _ a4 h1, hcount _ a5 h2, hcount _ a6 h3⟩
  · intro x hx
    rw [List.dropLast_concat] at hx
    exact hno x hx
  · intro hl
    simp only [List.length_append, List.length_singleton] at hl
    exact ⟨e, by simp, hlen.resolve_left (by omega)⟩

theorem enqueue_queueSound {sp : ServicePort} (e : Event) (now : Time) (h : QueueSound sp.queue)
    (h1 : e.isRecordsLost = true → sp.holds Event.isRecordsLost = false)
    (h2 : e.isCursorSkipped = true → sp.holds Event.isCursorSkipped = false)
    (h3 : e.isWatermark = true → sp.holds Event.isWatermark = false) :
    QueueSound (sp.enqueue e now).queue := by
  unfold ServicePort.enqueue
  split
  · exact addInto_queueSound _ _ _ h
  · next hel =>
    have hel' : sp.queue.any (fun e => e.event.isEventsLost) = false := by simpa [ServicePort.holds] using hel
    split
    · exact append_queueSound h hel' (.inr rfl) (by intro k; cases k) (by intro k; cases k)
        (by intro k; cases k)
    · next hl =>
      exact append_queueSound h hel' (.inl (by simpa [Config.plainEvents] using hl)) h1 h2 h3

/-- Placing an event keeps the queue's shape (R168). -/
theorem place_queueSound {sp : ServicePort} (e : Event) (now : Time) (h : QueueSound sp.queue) :
    QueueSound (sp.place e now).queue := by
  cases e <;> simp only [ServicePort.place]
  case recordsLost n =>
    split
    · exact addInto_queueSound _ _ _ h
    · next hn => exact enqueue_queueSound _ _ h (fun _ => by simpa using hn) (by intro k; cases k) (by intro k; cases k)
  case cursorSkipped n =>
    split
    · exact addInto_queueSound _ _ _ h
    · next hn => exact enqueue_queueSound _ _ h (by intro k; cases k) (fun _ => by simpa using hn) (by intro k; cases k)
  case watermark n =>
    split
    · exact h
    · next hn => exact enqueue_queueSound _ _ h (by intro k; cases k) (by intro k; cases k) (fun _ => by simpa using hn)
  all_goals
    exact enqueue_queueSound _ _ h (by intro k; cases k) (by intro k; cases k) (by intro k; cases k)

theorem raiseEvent_queueSound (e : Event) {s : State} (h : QueueSound s.sp.queue) :
    QueueSound (raiseEvent e s).sp.queue := by
  unfold raiseEvent
  split
  · exact place_queueSound e _ h
  · exact h

/-! ### Removal -/

theorem tail_queueSound {e : Entry} {q : List Entry} (h : QueueSound (e :: q)) : QueueSound q := by
  obtain ⟨h1, h2, h3, h4, h5, h6⟩ := h
  have hsub : ∀ p : Entry → Bool, q.countP p ≤ (e :: q).countP p :=
    fun p => (List.sublist_cons_self e q).countP_le
  simp only [List.length_cons] at h1 h3
  refine ⟨by omega, ?_, fun hl => by omega, (hsub _).trans h4, (hsub _).trans h5, (hsub _).trans h6⟩
  intro x hx
  cases q with
  | nil => simp at hx
  | cons f r => exact h2 x (by rw [List.dropLast_cons_cons]; exact List.mem_cons_of_mem _ hx)

/-- Settling the event in flight keeps the queue's shape (R169, R172). -/
theorem removeEvent_queueSound {sp : ServicePort} (h : QueueSound sp.queue) : QueueSound (removeEvent sp).queue := by
  unfold removeEvent
  split
  · exact h
  split
  · exact h
  · next e rest hq =>
    rw [hq] at h
    split
    · exact tail_queueSound h
    · refine queueSound_of_kinds ?_ h
      simp [kindsOf, minus_kinds]

/-- A queue of one entry has the shape. -/
theorem single_queueSound (e : Entry) : QueueSound [e] := by
  have hc : ∀ p : Entry → Bool, [e].countP p ≤ 1 := fun p => by simpa using List.countP_le_length (p := p) (l := [e])
  exact ⟨by simp, by simp, by simp, hc _, hc _, hc _⟩

/-! ### The operations that raise events -/

/-- The shape of the event queue is kept from `s` to `t`. -/
def QueueKept (s t : State) : Prop := QueueSound s.sp.queue → QueueSound t.sp.queue

theorem QueueKept.refl (s : State) : QueueKept s s := id

theorem QueueKept.trans {s t u : State} (h : QueueKept s t) (k : QueueKept t u) : QueueKept s u := k ∘ h

theorem raiseEvent_queueKept (e : Event) (s : State) : QueueKept s (raiseEvent e s) := raiseEvent_queueSound e

theorem removeOldest_queueKept (k : Nat) (s : State) : QueueKept s (removeOldest k s) := by
  exact id

theorem discardOldest_queueKept (k : Nat) (s : State) : QueueKept s (discardOldest k s) := by
  unfold discardOldest
  split
  · exact (removeOldest_queueKept k s).trans (raiseEvent_queueKept _ _)
  · exact removeOldest_queueKept k s

theorem freeRead_queueKept (s : State) : QueueKept s (freeRead s) := removeOldest_queueKept _ s

theorem appendRecord_queueKept (r : Record) (pre : Bool) (s : State) : QueueKept s (appendRecord r pre s) := by
  exact id

theorem emptyTrace_queueKept (s : State) : QueueKept s (emptyTrace s) := by exact id

theorem judgeWatermark_queueKept (s : State) : QueueKept s (judgeWatermark s) := by
  unfold judgeWatermark
  split
  · exact .refl s
  split
  · split
    · exact id
    · exact .refl s
  split
  · exact QueueKept.trans (t := { s with ru := { s.ru with reached := true } }) (by exact id)
      (raiseEvent_queueKept _ _)
  · exact .refl s

theorem assertHold_queueKept (s : State) : QueueKept s (assertHold s) :=
  QueueKept.trans (t := { s with tm := { s.tm with episode := some { ticks := 0, violated := false } } })
    (by exact id) (raiseEvent_queueKept _ _)

theorem releaseHold_queueKept (c : HoldOffCause) (e : Episode) (s : State) : QueueKept s (releaseHold c e s) :=
  QueueKept.trans (t := { s with tm := { s.tm with episode := none } }) (by exact id)
    (raiseEvent_queueKept _ _)

theorem judgeHold_queueKept (s : State) : QueueKept s (judgeHold s) := by
  unfold judgeHold
  split
  · split
    · exact assertHold_queueKept s
    · exact .refl s
  · split
    · exact releaseHold_queueKept _ _ s
    split
    · exact releaseHold_queueKept _ _ s
    · exact .refl s

theorem settle_queueKept (s t : State) : QueueKept t (settle s t) := by
  unfold settle
  have h : QueueKept t (if s.unread = t.unread then t else judgeWatermark t) := by
    split
    · exact .refl t
    · exact judgeWatermark_queueKept t
  dsimp only
  generalize (if s.unread = t.unread then t else judgeWatermark t) = judged at h ⊢
  split
  · exact h
  · exact h.trans (judgeHold_queueKept _)

theorem happening_queueKept {f : State → State} {s : State} (h : QueueKept s (f s)) : QueueKept s (happening f s) :=
  h.trans (settle_queueKept s (f s))

/-! ### Timebase, sequencer and capture operations -/

theorem pulseXt_queueKept (s : State) : QueueKept s (pulseXt s) := by
  unfold pulseXt
  split
  · split <;> (exact id)
  · exact .refl s

theorem appendGap_queueKept (s : State) : QueueKept s (appendGap s) := by
  unfold appendGap
  split
  · exact .refl s
  · exact id

theorem grantOffer_queueKept (r : Record) (pre : Bool) (k : Nat) (s : State) : QueueKept s (grantOffer r pre k s) := by
  unfold grantOffer
  have h : QueueKept s (if k = 0 then s else discardOldest k s) := by
    split
    · exact .refl s
    · exact discardOldest_queueKept k s
  have h2 := (h.trans (appendGap_queueKept _)).trans (appendRecord_queueKept r pre _)
  exact h2.trans (by exact id)

theorem offer_queueKept (r : Record) (pre : Bool) (s : State) : QueueKept s (offer r pre s).2 := by
  unfold offer
  split
  · exact grantOffer_queueKept r pre _ s
  · exact .refl s

theorem loseFrame_queueKept (n : BitVec 16) (time : Time) (s : State) : QueueKept s (loseFrame n time s) := by
  unfold loseFrame
  refine QueueKept.trans ?_ (raiseEvent_queueKept _ _)
  exact id

theorem completionGap_queueKept (s : State) : QueueKept s (completionGap s) := by
  unfold completionGap
  split
  · exact appendGap_queueKept s
  · exact id

theorem completeSession_queueKept (c : Cause) (s : State) : QueueKept s (completeSession c s) := by
  unfold completeSession
  have h1 : QueueKept s { s with cc := s.cc.leaveFrame } := by exact id
  have h2 := h1.trans (completionGap_queueKept _)
  dsimp only
  generalize completionGap _ = left at h2 ⊢
  have h3 : QueueKept left { left with cc := { left.cc with state := .complete c } } := by exact id
  have h4 := h3.trans (raiseEvent_queueKept (.sessionComplete c) _)
  have h5 := h2.trans h4
  exact h5.trans (by exact id)

theorem triggerPlaced_queueKept (s : State) : QueueKept s (triggerPlaced s) := by
  unfold triggerPlaced
  split
  · exact completeSession_queueKept _ s
  · exact id

theorem refusedForRoom_queueKept (s : State) : QueueKept s (refusedForRoom s) := by
  unfold refusedForRoom
  split
  · exact completeSession_queueKept _ s
  · exact .refl s

theorem countPost_queueKept (s : State) : QueueKept s (countPost s) := by
  unfold countPost
  have h : QueueKept s { s with cc := { s.cc with postCount := satAdd Config.max16 s.cc.postCount 1 } } := by
    exact id
  dsimp only
  split
  · exact h.trans (completeSession_queueKept _ _)
  · exact h

theorem offerFrame_queueKept (r : FrameRecord) (trigger : Bool) (s : State) : QueueKept s (offerFrame r trigger s) := by
  unfold offerFrame
  split
  · have h : QueueKept s (if (offer (.frame r) (!trigger) s).1 then (offer (.frame r) (!trigger) s).2
        else loseFrame r.number r.startTime (offer (.frame r) (!trigger) s).2) := by
      split
      · exact offer_queueKept _ _ s
      · exact (offer_queueKept _ _ s).trans (loseFrame_queueKept _ _ _)
    dsimp only
    split
    · exact h.trans (triggerPlaced_queueKept _)
    · exact h
  · dsimp only
    split
    · exact (offer_queueKept _ _ s).trans (countPost_queueKept _)
    · exact ((offer_queueKept _ _ s).trans (loseFrame_queueKept _ _ _)).trans (refusedForRoom_queueKept _)
  · dsimp only
    split
    · exact offer_queueKept _ _ s
    · exact ((offer_queueKept _ _ s).trans (loseFrame_queueKept _ _ _)).trans (refusedForRoom_queueKept _)
  · exact .refl s

theorem offerMarker_queueKept (src : TriggerSource) (s : State) : QueueKept s (offerMarker src s) := by
  unfold offerMarker
  dsimp only
  split
  · exact (offer_queueKept _ _ s).trans (triggerPlaced_queueKept _)
  · split
    · exact offer_queueKept _ _ s
    · exact (offer_queueKept _ _ s).trans (refusedForRoom_queueKept _)
  · split
    · exact offer_queueKept _ _ s
    · exact (offer_queueKept _ _ s).trans (refusedForRoom_queueKept _)
  · exact .refl s

theorem placeTrigger_queueKept (src : TriggerSource) (s : State) : QueueKept s (placeTrigger src s) := by
  unfold placeTrigger
  split
  · split
    · exact id
    · exact offerMarker_queueKept src s
  · exact offerMarker_queueKept src s

theorem postTrigger_queueKept (s : State) : QueueKept s (postTrigger s) := by
  unfold postTrigger
  split
  · exact .refl s
  split <;> (exact id)

theorem declareTrigger_queueKept (src : TriggerSource) (s : State) : QueueKept s (declareTrigger src s) := by
  unfold declareTrigger
  dsimp only
  refine QueueKept.trans ?_ (postTrigger_queueKept _)
  refine QueueKept.trans ?_ (pulseXt_queueKept _)
  refine QueueKept.trans ?_ (placeTrigger_queueKept _ _)
  refine QueueKept.trans ?_ (raiseEvent_queueKept _ _)
  exact id

theorem completeStage_queueKept (src : TriggerSource) (s : State) : QueueKept s (completeStage src s) := by
  unfold completeStage
  split
  · exact id
  · exact declareTrigger_queueKept src s

theorem takeHit_queueKept (hit : Fin 9) (s : State) : QueueKept s (takeHit hit s) := by
  unfold takeHit
  split
  · split
    · exact id
    split
    · have h : QueueKept s { s with seq := { s.seq with occ := s.seq.occ + 1 } } := by exact id
      dsimp only
      split
      · exact h.trans (completeStage_queueKept _ _)
      · exact h
    · exact .refl s
  · exact .refl s

theorem takeHits_queueKept (hits : List (Fin 9)) (s : State) : QueueKept s (hits.foldl (fun t h => takeHit h t) s) := by
  induction hits generalizing s with
  | nil => exact .refl s
  | cons h rest ih => exact (takeHit_queueKept h s).trans (ih _)

theorem takeGroup_queueKept (start : Nat) (group : BitVec 8) (s : State) : QueueKept s (takeGroup start group s) := by
  unfold takeGroup
  split
  · exact takeHits_queueKept _ s
  · exact .refl s

theorem expireStage_queueKept (s : State) : QueueKept s (expireStage s) := by
  unfold expireStage
  dsimp only
  split
  · exact (raiseEvent_queueKept _ s).trans (by exact id)
  · exact (raiseEvent_queueKept _ s).trans (completeStage_queueKept _ _)

theorem memberFrameEnd_queueKept (ctx : FrameContext) (hits : BitVec 8) (f : CurrentFrame) (s : State) :
    QueueKept s (memberFrameEnd ctx hits f s) := by
  unfold memberFrameEnd
  dsimp only
  split
  · refine QueueKept.trans ?_ (offerFrame_queueKept _ _ _)
    exact id
  · exact id

theorem captureFrameEnd_queueKept (ctx : FrameContext) (hits : BitVec 8) (s : State) :
    QueueKept s (captureFrameEnd ctx hits s) := by
  unfold captureFrameEnd
  dsimp only
  split
  · split
    · exact (memberFrameEnd_queueKept ctx hits _ s).trans (by exact id)
    · exact id
  · exact id


theorem evaluate_queueKept (point : Slot → SlotProgress → SlotProgress × Bool) (s : State) :
    QueueKept s (evaluate point s) := by
  unfold evaluate
  split
  · exact .refl s
  · next e h => exact fun hq => takeGroup_queueKept e.start (e.group point) _ hq

end Sys2Proof.Machine
end

