-- ==== Sys2Proof/Laws/Records.lean ====
section
/-! SUPPORT. No record twice in the trace (`RecordsDistinct`, R102), through every shared operation. -/

namespace Sys2Proof.Machine
open Sys2Proof

def RecordsKept (s t : State) : Prop := RecordsDistinct s → RecordsDistinct t

theorem RecordsKept.refl (s : State) : RecordsKept s s := id

theorem RecordsKept.trans {s t u : State} (h : RecordsKept s t) (k : RecordsKept t u) : RecordsKept s u := k ∘ h

theorem raiseEvent_recordsKept (e : Event) (s : State) : RecordsKept s (raiseEvent e s) := by
  unfold RecordsKept RecordsDistinct
  simp

theorem removeOldest_recordsKept (k : Nat) (s : State) : RecordsKept s (removeOldest k s) := by
  rintro ⟨h1, h2, h3⟩
  refine ⟨?_, fun h hh => h2 h (List.mem_of_mem_drop hh), h3⟩
  simp only [removeOldest, List.map_drop]
  exact h1.sublist (List.drop_sublist _ _)

theorem discardOldest_recordsKept (k : Nat) (s : State) : RecordsKept s (discardOldest k s) := by
  unfold discardOldest
  split
  · exact (removeOldest_recordsKept k s).trans (raiseEvent_recordsKept _ _)
  · exact removeOldest_recordsKept k s

theorem freeRead_recordsKept (s : State) : RecordsKept s (freeRead s) := removeOldest_recordsKept _ s

theorem appendRecord_recordsKept (r : Record) (pre : Bool) (s : State) : RecordsKept s (appendRecord r pre s) := by
  rintro ⟨h1, h2, h3⟩
  refine ⟨?_, ?_, fun id hid => Nat.lt_succ_of_lt (h3 id hid)⟩
  · simp only [appendRecord, List.map_append, List.map_cons, List.map_nil]
    rw [List.nodup_append]
    refine ⟨h1, by simp, ?_⟩
    intro i hi j hj hij
    obtain ⟨h, hh, rfl⟩ := List.mem_map.1 hi
    have := h2 h hh
    simp only [List.mem_singleton] at hj
    omega
  · intro h hh
    simp only [appendRecord, List.mem_append, List.mem_singleton] at hh ⊢
    rcases hh with hh | rfl
    · exact Nat.lt_succ_of_lt (h2 h hh)
    · exact Nat.lt_succ_self _

theorem emptyTrace_recordsKept (s : State) : RecordsKept s (emptyTrace s) := by
  rintro ⟨_, _, h3⟩
  exact ⟨by simp [emptyTrace], by simp [emptyTrace], h3⟩

theorem judgeWatermark_recordsKept (s : State) : RecordsKept s (judgeWatermark s) := by
  unfold judgeWatermark
  split
  · exact .refl s
  split
  · split
    · exact id
    · exact .refl s
  split
  · exact RecordsKept.trans (t := { s with ru := { s.ru with reached := true } }) (by exact id)
      (raiseEvent_recordsKept _ _)
  · exact .refl s

theorem assertHold_recordsKept (s : State) : RecordsKept s (assertHold s) :=
  RecordsKept.trans (t := { s with tm := { s.tm with episode := some { ticks := 0, violated := false } } })
    (by exact id) (raiseEvent_recordsKept _ _)

theorem releaseHold_recordsKept (c : HoldOffCause) (e : Episode) (s : State) : RecordsKept s (releaseHold c e s) :=
  RecordsKept.trans (t := { s with tm := { s.tm with episode := none } }) (by exact id)
    (raiseEvent_recordsKept _ _)

theorem judgeHold_recordsKept (s : State) : RecordsKept s (judgeHold s) := by
  unfold judgeHold
  split
  · split
    · exact assertHold_recordsKept s
    · exact .refl s
  · split
    · exact releaseHold_recordsKept _ _ s
    split
    · exact releaseHold_recordsKept _ _ s
    · exact .refl s

theorem settle_recordsKept (s t : State) : RecordsKept t (settle s t) := by
  unfold settle
  have h : RecordsKept t (if s.unread = t.unread then t else judgeWatermark t) := by
    split
    · exact .refl t
    · exact judgeWatermark_recordsKept t
  dsimp only
  generalize (if s.unread = t.unread then t else judgeWatermark t) = judged at h ⊢
  split
  · exact h
  · exact h.trans (judgeHold_recordsKept _)

theorem happening_recordsKept {f : State → State} {s : State} (h : RecordsKept s (f s)) : RecordsKept s (happening f s) :=
  h.trans (settle_recordsKept s (f s))

/-! ### Timebase, sequencer and capture operations -/

theorem pulseXt_recordsKept (s : State) : RecordsKept s (pulseXt s) := by
  unfold pulseXt
  split
  · split <;> (exact id)
  · exact .refl s

theorem appendGap_recordsKept (s : State) : RecordsKept s (appendGap s) := by
  unfold appendGap
  split
  · exact .refl s
  · next run _ => exact fun h => appendRecord_recordsKept (.gap run) false s h

theorem grantOffer_recordsKept (r : Record) (pre : Bool) (k : Nat) (s : State) : RecordsKept s (grantOffer r pre k s) := by
  unfold grantOffer
  have h : RecordsKept s (if k = 0 then s else discardOldest k s) := by
    split
    · exact .refl s
    · exact discardOldest_recordsKept k s
  have h2 := (h.trans (appendGap_recordsKept _)).trans (appendRecord_recordsKept r pre _)
  exact h2.trans (by exact id)

theorem offer_recordsKept (r : Record) (pre : Bool) (s : State) : RecordsKept s (offer r pre s).2 := by
  unfold offer
  split
  · exact grantOffer_recordsKept r pre _ s
  · exact .refl s

theorem loseFrame_recordsKept (n : BitVec 16) (time : Time) (s : State) : RecordsKept s (loseFrame n time s) := by
  unfold loseFrame
  refine RecordsKept.trans ?_ (raiseEvent_recordsKept _ _)
  exact id

theorem completionGap_recordsKept (s : State) : RecordsKept s (completionGap s) := by
  unfold completionGap
  split
  · exact appendGap_recordsKept s
  · exact id

theorem completeSession_recordsKept (c : Cause) (s : State) : RecordsKept s (completeSession c s) := by
  unfold completeSession
  have h1 : RecordsKept s { s with cc := s.cc.leaveFrame } := by exact id
  have h2 := h1.trans (completionGap_recordsKept _)
  dsimp only
  generalize completionGap _ = left at h2 ⊢
  have h3 : RecordsKept left { left with cc := { left.cc with state := .complete c } } := by exact id
  have h4 := h3.trans (raiseEvent_recordsKept (.sessionComplete c) _)
  have h5 := h2.trans h4
  exact h5.trans (by exact id)

theorem triggerPlaced_recordsKept (s : State) : RecordsKept s (triggerPlaced s) := by
  unfold triggerPlaced
  split
  · exact completeSession_recordsKept _ s
  · exact id

theorem refusedForRoom_recordsKept (s : State) : RecordsKept s (refusedForRoom s) := by
  unfold refusedForRoom
  split
  · exact completeSession_recordsKept _ s
  · exact .refl s

theorem countPost_recordsKept (s : State) : RecordsKept s (countPost s) := by
  unfold countPost
  have h : RecordsKept s { s with cc := { s.cc with postCount := satAdd Config.max16 s.cc.postCount 1 } } := by
    exact id
  dsimp only
  split
  · exact h.trans (completeSession_recordsKept _ _)
  · exact h

theorem offerFrame_recordsKept (r : FrameRecord) (trigger : Bool) (s : State) : RecordsKept s (offerFrame r trigger s) := by
  unfold offerFrame
  split
  · have h : RecordsKept s (if (offer (.frame r) (!trigger) s).1 then (offer (.frame r) (!trigger) s).2
        else loseFrame r.number r.startTime (offer (.frame r) (!trigger) s).2) := by
      split
      · exact offer_recordsKept _ _ s
      · exact (offer_recordsKept _ _ s).trans (loseFrame_recordsKept _ _ _)
    dsimp only
    split
    · exact h.trans (triggerPlaced_recordsKept _)
    · exact h
  · dsimp only
    split
    · exact (offer_recordsKept _ _ s).trans (countPost_recordsKept _)
    · exact ((offer_recordsKept _ _ s).trans (loseFrame_recordsKept _ _ _)).trans (refusedForRoom_recordsKept _)
  · dsimp only
    split
    · exact offer_recordsKept _ _ s
    · exact ((offer_recordsKept _ _ s).trans (loseFrame_recordsKept _ _ _)).trans (refusedForRoom_recordsKept _)
  · exact .refl s

theorem offerMarker_recordsKept (src : TriggerSource) (s : State) : RecordsKept s (offerMarker src s) := by
  unfold offerMarker
  dsimp only
  split
  · exact (offer_recordsKept _ _ s).trans (triggerPlaced_recordsKept _)
  · split
    · exact offer_recordsKept _ _ s
    · exact (offer_recordsKept _ _ s).trans (refusedForRoom_recordsKept _)
  · split
    · exact offer_recordsKept _ _ s
    · exact (offer_recordsKept _ _ s).trans (refusedForRoom_recordsKept _)
  · exact .refl s

theorem placeTrigger_recordsKept (src : TriggerSource) (s : State) : RecordsKept s (placeTrigger src s) := by
  unfold placeTrigger
  split
  · split
    · exact id
    · exact offerMarker_recordsKept src s
  · exact offerMarker_recordsKept src s

theorem postTrigger_recordsKept (s : State) : RecordsKept s (postTrigger s) := by
  unfold postTrigger
  split
  · exact .refl s
  split <;> (exact id)

theorem declareTrigger_recordsKept (src : TriggerSource) (s : State) : RecordsKept s (declareTrigger src s) := by
  unfold declareTrigger
  dsimp only
  refine RecordsKept.trans ?_ (postTrigger_recordsKept _)
  refine RecordsKept.trans ?_ (pulseXt_recordsKept _)
  refine RecordsKept.trans ?_ (placeTrigger_recordsKept _ _)
  refine RecordsKept.trans ?_ (raiseEvent_recordsKept _ _)
  exact id

theorem completeStage_recordsKept (src : TriggerSource) (s : State) : RecordsKept s (completeStage src s) := by
  unfold completeStage
  split
  · exact id
  · exact declareTrigger_recordsKept src s

theorem takeHit_recordsKept (hit : Fin 9) (s : State) : RecordsKept s (takeHit hit s) := by
  unfold takeHit
  split
  · split
    · exact id
    split
    · have h : RecordsKept s { s with seq := { s.seq with occ := s.seq.occ + 1 } } := by exact id
      dsimp only
      split
      · exact h.trans (completeStage_recordsKept _ _)
      · exact h
    · exact .refl s
  · exact .refl s

theorem takeHits_recordsKept (hits : List (Fin 9)) (s : State) : RecordsKept s (hits.foldl (fun t h => takeHit h t) s) := by
  induction hits generalizing s with
  | nil => exact .refl s
  | cons h rest ih => exact (takeHit_recordsKept h s).trans (ih _)

theorem takeGroup_recordsKept (start : Nat) (group : BitVec 8) (s : State) : RecordsKept s (takeGroup start group s) := by
  unfold takeGroup
  split
  · exact takeHits_recordsKept _ s
  · exact .refl s

theorem expireStage_recordsKept (s : State) : RecordsKept s (expireStage s) := by
  unfold expireStage
  dsimp only
  split
  · exact (raiseEvent_recordsKept _ s).trans (by exact id)
  · exact (raiseEvent_recordsKept _ s).trans (completeStage_recordsKept _ _)

theorem memberFrameEnd_recordsKept (ctx : FrameContext) (hits : BitVec 8) (f : CurrentFrame) (s : State) :
    RecordsKept s (memberFrameEnd ctx hits f s) := by
  unfold memberFrameEnd
  dsimp only
  split
  · refine RecordsKept.trans ?_ (offerFrame_recordsKept _ _ _)
    exact id
  · exact id

theorem captureFrameEnd_recordsKept (ctx : FrameContext) (hits : BitVec 8) (s : State) :
    RecordsKept s (captureFrameEnd ctx hits s) := by
  unfold captureFrameEnd
  dsimp only
  split
  · split
    · exact (memberFrameEnd_recordsKept ctx hits _ s).trans (by exact id)
    · exact id
  · exact id

theorem evaluate_recordsKept (point : Slot → SlotProgress → SlotProgress × Bool) (s : State) :
    RecordsKept s (evaluate point s) := by
  unfold evaluate
  split
  · exact .refl s
  · next e h => exact fun hq => takeGroup_recordsKept e.start (e.group point) _ hq

end Sys2Proof.Machine
end

