-- ==== Sys2Proof/Laws/Trace.lean ====
section
/-! SUPPORT. The trace's accounting (`TraceSound`, R102, R124, R126) through every shared operation, and what a
judged offer leaves room for (R105, R106). -/

namespace Sys2Proof.Machine
open Sys2Proof

/-- The trace's accounting is kept from `s` to `t`. -/
def TraceKept (s t : State) : Prop := TraceSound s → TraceSound t

theorem TraceKept.refl (s : State) : TraceKept s s := id

theorem TraceKept.trans {s t u : State} (h : TraceKept s t) (k : TraceKept t u) : TraceKept s u := k ∘ h

/-- What the accounting looks at. -/
theorem traceKept_of_eq {s t : State} (h1 : t.tm.trace = s.tm.trace) (h2 : t.tm.free = s.tm.free)
    (h3 : t.ru.cursor = s.ru.cursor) (h4 : t.ru.mark = s.ru.mark) (h5 : t.cc.setup.keep = s.cc.setup.keep)
    (h6 : t.tap.boundary = s.tap.boundary) : TraceKept s t := by
  intro h
  unfold TraceSound at h ⊢
  rw [h1, h2, h3, h4, h5, h6]
  exact h

/-! ### Units -/

theorem unitsOf_cons (h : Held) (l : List Held) : unitsOf (h :: l) = h.record.units + unitsOf l := rfl

theorem unitsOf_append (l m : List Held) : unitsOf (l ++ m) = unitsOf l + unitsOf m := by
  simp [unitsOf]

theorem unitsOf_take_drop (k : Nat) (l : List Held) : unitsOf (l.take k) + unitsOf (l.drop k) = unitsOf l := by
  rw [← unitsOf_append, List.take_append_drop]

/-- A GAP or MARKER record is 4 units, a FRAME record 4 and its stored bytes' (R90, R91). -/
theorem units_bounds (r : Record) (h : ∀ f, r = .frame f → f.stored.length ≤ 256) :
    4 ≤ r.units ∧ r.units ≤ 36 := by
  cases r with
  | frame f =>
    have := h f rfl
    simp only [Record.units, Config.headerUnits]
    omega
  | gap _ => simp [Record.units, Config.headerUnits]
  | marker _ _ _ => simp [Record.units, Config.headerUnits]

/-! ### Removals -/

theorem removeOldest_traceKept (k : Nat) (s : State) (hm : s.ru.mark = none ∨ k = 0) :
    TraceKept s (removeOldest k s) := by
  rintro ⟨h1, h2, h3, h4, h5, h6, h7⟩
  refine ⟨?_, fun h hh => h2 h (List.mem_of_mem_drop hh), ?_, ?_, ?_, h6, h7⟩
  · have := unitsOf_take_drop k s.tm.trace
    simp only [removeOldest]
    omega
  · simp only [removeOldest, List.length_drop]
    omega
  · intro hn
    simp only [removeOldest, Option.map_eq_none_iff] at hn ⊢
    have := h4 hn
    omega
  · intro m hmk
    simp only [removeOldest, Option.map_eq_some_iff] at hmk
    obtain ⟨m', hm', rfl⟩ := hmk
    obtain ⟨rfl, ht⟩ := h5 m' hm'
    rcases hm with hm | rfl
    · simp [hm] at hm'
    · simpa [removeOldest] using ht

theorem raiseEvent_traceKept (e : Event) (s : State) : TraceKept s (raiseEvent e s) := by
  apply traceKept_of_eq <;> simp

theorem discardOldest_traceKept (k : Nat) (s : State) (hm : s.ru.mark = none ∨ k = 0) :
    TraceKept s (discardOldest k s) := by
  unfold discardOldest
  split
  · exact (removeOldest_traceKept k s hm).trans (raiseEvent_traceKept _ _)
  · exact removeOldest_traceKept k s hm

/-- An advance of the cursor with the freeing that follows it (R112). -/
theorem advance_traceKept (k : Nat) (s : State) (hk : s.ru.cursor + k ≤ s.tm.trace.length) :
    TraceKept s (freeRead { s with ru := { s.ru with cursor := s.ru.cursor + k } }) := by
  rintro ⟨h1, h2, h3, h4, h5, h6, h7⟩
  cases hm : s.ru.mark with
  | none =>
    have hc := h4 hm
    refine ⟨?_, fun h hh => h2 h (List.mem_of_mem_drop hh), ?_, ?_, ?_, h6, h7⟩
    · have := unitsOf_take_drop (s.ru.cursor + k) s.tm.trace
      simp only [freeRead, removeOldest, hm, Option.getD_none]
      omega
    · simp only [freeRead, removeOldest, hm, Option.getD_none, List.length_drop]
      omega
    · intro _
      simp [freeRead, removeOldest, hm]
    · intro m hmm
      simp [freeRead, removeOldest, hm] at hmm
  | some m =>
    obtain ⟨rfl, ht⟩ := h5 m hm
    refine ⟨?_, ?_, ?_, ?_, ?_, h6, h7⟩
    · simpa [freeRead, removeOldest, hm, unitsOf] using h1
    · simpa [freeRead, removeOldest, hm] using h2
    · simpa [freeRead, removeOldest, hm] using hk
    · intro hn
      simp [freeRead, removeOldest, hm] at hn
    · intro m hmm
      simp only [freeRead, removeOldest, hm, Option.map_some, Option.some.injEq] at hmm
      refine ⟨by omega, ?_⟩
      simpa [freeRead, removeOldest, hm] using ht

theorem emptyTrace_traceKept (s : State) : TraceKept s (emptyTrace s) := by
  rintro ⟨_, _, _, _, _, h6, h7⟩
  exact ⟨rfl, by simp [emptyTrace], Nat.le_refl 0, fun _ => rfl, by simp [emptyTrace], h6, h7⟩

/-! ### Appends -/

theorem appendRecord_traceKept (r : Record) (pre : Bool) (s : State) (hu : 4 ≤ r.units ∧ r.units ≤ 36)
    (hf : r.units ≤ s.tm.free) : TraceKept s (appendRecord r pre s) := by
  rintro ⟨h1, h2, h3, h4, h5, h6, h7⟩
  refine ⟨?_, ?_, ?_, h4, ?_, h6, h7⟩
  · simp only [appendRecord, unitsOf_append, unitsOf_cons]
    simp only [unitsOf, List.map_nil, List.sum_nil] at h1 ⊢
    omega
  · intro h hh
    simp only [appendRecord, List.mem_append, List.mem_singleton] at hh
    rcases hh with hh | rfl
    · exact h2 h hh
    · exact hu
  · simp only [appendRecord, List.length_append, List.length_singleton]
    omega
  · intro m hm
    exact ⟨(h5 m hm).1, by simp [appendRecord]⟩

theorem appendGap_traceKept (s : State) (hf : s.cc.loss.isSome = true → 4 ≤ s.tm.free) :
    TraceKept s (appendGap s) := by
  unfold appendGap
  split
  · exact .refl s
  · next run hr =>
    exact (appendRecord_traceKept (.gap run) false s (units_bounds _ (by simp)) (hf (by simp [hr]))).trans
      (traceKept_of_eq rfl rfl rfl rfl rfl rfl)

/-- The units a pending loss run's GAP record takes. -/
def gapUnits (s : State) : Nat := if s.cc.loss.isSome then 4 else 0

theorem offerUnits_eq (r : Record) (s : State) : offerUnits r s = gapUnits s + r.units := rfl

/-- Appending the GAP record of a pending run takes its units (R97). -/
theorem appendGap_free (s : State) : (appendGap s).tm.free = s.tm.free - gapUnits s := by
  unfold appendGap gapUnits
  split <;> simp_all [appendRecord, Record.units, Config.headerUnits]

/-! ### Judging an offer -/

theorem discardsForDepth_le (l : List Held) : discardsForDepth l ≤ l.length := by
  unfold discardsForDepth
  split
  · next i h =>
    have := (List.findIdx?_eq_some_iff_findIdx_eq.1 h).1
    omega
  · omega

theorem discardsForRoom_le (need free : Nat) (l : List Held) : discardsForRoom need free l ≤ l.length := by
  induction l generalizing free with
  | nil => simp [discardsForRoom]
  | cons h rest ih =>
    unfold discardsForRoom
    split
    · omega
    · simpa using ih _

/-- The discards for room end with room, or with every record gone (R106, step 2). -/
theorem discardsForRoom_spec (need free : Nat) (l : List Held) :
    need ≤ free + unitsOf (l.take (discardsForRoom need free l)) ∨ discardsForRoom need free l = l.length := by
  induction l generalizing free with
  | nil => right; rfl
  | cons h rest ih =>
    unfold discardsForRoom
    split
    · left; omega
    · rcases ih (free + h.record.units) with hc | hc
      · left
        rw [List.take_succ_cons, unitsOf_cons]
        omega
      · right
        simp [hc]

/-- A granted offer fits after its discards, and discards nothing past the mark (R105, R106). -/
theorem judgeOffer_spec {units : Nat} {forDepth : Bool} {s : State} {k : Nat} (hs : TraceSound s)
    (hu : units ≤ Config.traceUnits) (h : judgeOffer units forDepth s = some k) :
    units ≤ s.tm.free + unitsOf (s.tm.trace.take k) ∧ (s.ru.mark = none ∨ k = 0) := by
  obtain ⟨h1, -, -, -, h5, -, -⟩ := hs
  unfold judgeOffer at h
  split at h
  · have hroom : units ≤ s.tm.free + unitsOf (s.tm.trace.take (requiredDiscards units forDepth s.tm)) := by
      unfold requiredDiscards
      dsimp only
      generalize (if forDepth then discardsForDepth s.tm.trace else 0) = first
      have hsplit := unitsOf_take_drop first s.tm.trace
      have hadd : ∀ n, unitsOf (s.tm.trace.take (first + n)) =
          unitsOf (s.tm.trace.take first) + unitsOf ((s.tm.trace.drop first).take n) := by
        intro n
        rw [List.take_add, unitsOf_append]
      rw [hadd]
      rcases discardsForRoom_spec units (s.tm.free + unitsOf (s.tm.trace.take first)) (s.tm.trace.drop first)
        with hc | hc
      · omega
      · rw [hc, List.take_length]
        omega
    dsimp only at h
    split at h
    · next m hm =>
      obtain ⟨rfl, -⟩ := h5 m hm
      split at h
      · simp at h
      · cases h
        exact ⟨hroom, .inr (by omega)⟩
    · next hm =>
      cases h
      exact ⟨hroom, .inl hm⟩
  · split at h
    · cases h
      exact ⟨by omega, .inr rfl⟩
    · simp at h
  · split at h
    · cases h
      exact ⟨by omega, .inr rfl⟩
    · simp at h
  · simp at h

theorem discardOldest_free (k : Nat) (s : State) :
    (discardOldest k s).tm.free = s.tm.free + unitsOf (s.tm.trace.take k) := by
  unfold discardOldest
  split <;> simp [removeOldest]

theorem discardOldest_loss (k : Nat) (s : State) : (discardOldest k s).cc.loss = s.cc.loss := by
  unfold discardOldest
  split <;> simp [removeOldest]

theorem grantOffer_traceKept (r : Record) (pre : Bool) (k : Nat) (s : State) (hr : 4 ≤ r.units ∧ r.units ≤ 36)
    (hm : s.ru.mark = none ∨ k = 0) (hf : offerUnits r s ≤ s.tm.free + unitsOf (s.tm.trace.take k)) :
    TraceKept s (grantOffer r pre k s) := by
  unfold grantOffer
  dsimp only
  have hd : TraceKept s (if k = 0 then s else discardOldest k s) := by
    split
    · exact .refl s
    · exact discardOldest_traceKept k s hm
  have hfree : (if k = 0 then s else discardOldest k s).tm.free = s.tm.free + unitsOf (s.tm.trace.take k) := by
    split
    · next hk => subst hk; simp [unitsOf]
    · exact discardOldest_free k s
  have hloss : (if k = 0 then s else discardOldest k s).cc.loss = s.cc.loss := by
    split
    · rfl
    · exact discardOldest_loss k s
  generalize (if k = 0 then s else discardOldest k s) = t at hd hfree hloss ⊢
  have hg : gapUnits t = gapUnits s := by unfold gapUnits; rw [hloss]
  rw [offerUnits_eq] at hf
  refine (hd.trans (appendGap_traceKept t ?_)).trans ((appendRecord_traceKept r pre _ hr ?_).trans ?_)
  · intro hl
    have : gapUnits t = 4 := by unfold gapUnits; simp [hl]
    omega
  · rw [appendGap_free]
    omega
  · exact traceKept_of_eq rfl rfl rfl rfl rfl rfl

theorem offer_traceKept (r : Record) (pre : Bool) (s : State) (hr : 4 ≤ r.units ∧ r.units ≤ 36) :
    TraceKept s (offer r pre s).2 := by
  intro hs
  unfold offer
  split
  · next k hk =>
    have hu : offerUnits r s ≤ Config.traceUnits := by
      rw [offerUnits_eq]
      unfold gapUnits Config.traceUnits
      split <;> omega
    obtain ⟨h1, h2⟩ := judgeOffer_spec hs hu hk
    exact grantOffer_traceKept r pre k s hr h2 h1 hs
  · exact hs

/-! ### Judgements, sessions, triggers, hits -/

theorem judgeWatermark_traceKept (s : State) : TraceKept s (judgeWatermark s) := by
  unfold judgeWatermark
  split
  · exact .refl s
  split
  · split
    · exact traceKept_of_eq rfl rfl rfl rfl rfl rfl
    · exact .refl s
  split
  · exact TraceKept.trans (t := { s with ru := { s.ru with reached := true } })
      (traceKept_of_eq rfl rfl rfl rfl rfl rfl) (raiseEvent_traceKept _ _)
  · exact .refl s

theorem judgeHold_traceKept (s : State) : TraceKept s (judgeHold s) := by
  unfold judgeHold assertHold releaseHold
  split
  · split
    · apply traceKept_of_eq <;> simp
    · exact .refl s
  · split
    · apply traceKept_of_eq <;> simp
    split
    · apply traceKept_of_eq <;> simp
    · exact .refl s

theorem settle_traceKept (s t : State) : TraceKept t (settle s t) := by
  unfold settle
  have h : TraceKept t (if s.unread = t.unread then t else judgeWatermark t) := by
    split
    · exact .refl t
    · exact judgeWatermark_traceKept t
  dsimp only
  generalize (if s.unread = t.unread then t else judgeWatermark t) = judged at h ⊢
  split
  · exact h
  · exact h.trans (judgeHold_traceKept _)

theorem happening_traceKept {f : State → State} {s : State} (h : TraceKept s (f s)) :
    TraceKept s (happening f s) := h.trans (settle_traceKept s (f s))

theorem pulseXt_traceKept (s : State) : TraceKept s (pulseXt s) := by
  unfold pulseXt
  split
  · split <;> exact traceKept_of_eq rfl rfl rfl rfl rfl rfl
  · exact .refl s

theorem loseFrame_traceKept (n : BitVec 16) (time : Time) (s : State) : TraceKept s (loseFrame n time s) := by
  unfold loseFrame
  apply traceKept_of_eq <;> simp

theorem completionGap_traceKept (s : State) : TraceKept s (completionGap s) := by
  unfold completionGap
  split
  · next h => exact appendGap_traceKept s fun _ => h
  · exact traceKept_of_eq rfl rfl rfl rfl rfl rfl

theorem completeSession_traceKept (c : Cause) (s : State) : TraceKept s (completeSession c s) := by
  unfold completeSession
  have h1 : TraceKept s { s with cc := s.cc.leaveFrame } := traceKept_of_eq rfl rfl rfl rfl rfl rfl
  have h2 := h1.trans (completionGap_traceKept _)
  dsimp only
  generalize completionGap _ = left at h2 ⊢
  have h3 : TraceKept left { left with cc := { left.cc with state := .complete c } } :=
    traceKept_of_eq rfl rfl rfl rfl rfl rfl
  exact (h2.trans (h3.trans (raiseEvent_traceKept (.sessionComplete c) _))).trans
    (traceKept_of_eq rfl rfl rfl rfl rfl rfl)

theorem triggerPlaced_traceKept (s : State) : TraceKept s (triggerPlaced s) := by
  unfold triggerPlaced
  split
  · exact completeSession_traceKept _ s
  · exact traceKept_of_eq rfl rfl rfl rfl rfl rfl

theorem refusedForRoom_traceKept (s : State) : TraceKept s (refusedForRoom s) := by
  unfold refusedForRoom
  split
  · exact completeSession_traceKept _ s
  · exact .refl s

theorem countPost_traceKept (s : State) : TraceKept s (countPost s) := by
  unfold countPost
  dsimp only
  have h : TraceKept s { s with cc := { s.cc with postCount := satAdd Config.max16 s.cc.postCount 1 } } :=
    traceKept_of_eq rfl rfl rfl rfl rfl rfl
  split
  · exact h.trans (completeSession_traceKept _ _)
  · exact h

theorem offerFrame_traceKept (r : FrameRecord) (trigger : Bool) (s : State) (hr : r.stored.length ≤ 256) :
    TraceKept s (offerFrame r trigger s) := by
  have hu : 4 ≤ (Record.frame r).units ∧ (Record.frame r).units ≤ 36 :=
    units_bounds _ (by intro f hf; cases hf; exact hr)
  have ho : ∀ pre, TraceKept s (offer (.frame r) pre s).2 := fun pre => offer_traceKept _ pre s hu
  unfold offerFrame
  split
  · have h : TraceKept s (if (offer (.frame r) (!trigger) s).1 then (offer (.frame r) (!trigger) s).2
        else loseFrame r.number r.startTime (offer (.frame r) (!trigger) s).2) := by
      split
      · exact ho _
      · exact (ho _).trans (loseFrame_traceKept _ _ _)
    dsimp only
    split
    · exact h.trans (triggerPlaced_traceKept _)
    · exact h
  · dsimp only
    split
    · exact (ho _).trans (countPost_traceKept _)
    · exact ((ho _).trans (loseFrame_traceKept _ _ _)).trans (refusedForRoom_traceKept _)
  · dsimp only
    split
    · exact ho _
    · exact ((ho _).trans (loseFrame_traceKept _ _ _)).trans (refusedForRoom_traceKept _)
  · exact .refl s

theorem offerMarker_traceKept (src : TriggerSource) (s : State) : TraceKept s (offerMarker src s) := by
  have ho := offer_traceKept (.marker s.cc.nextFrame s.tb.time src.markerCause) false s
    (units_bounds _ (by simp))
  unfold offerMarker
  dsimp only
  split
  · exact TraceKept.trans ho (triggerPlaced_traceKept _)
  · split
    · exact ho
    · exact TraceKept.trans ho (refusedForRoom_traceKept _)
  · split
    · exact ho
    · exact TraceKept.trans ho (refusedForRoom_traceKept _)
  · exact .refl s

theorem placeTrigger_traceKept (src : TriggerSource) (s : State) : TraceKept s (placeTrigger src s) := by
  unfold placeTrigger
  split
  · split
    · exact traceKept_of_eq rfl rfl rfl rfl rfl rfl
    · exact offerMarker_traceKept src s
  · exact offerMarker_traceKept src s

theorem postTrigger_traceKept (s : State) : TraceKept s (postTrigger s) := by
  unfold postTrigger
  split
  · exact .refl s
  split <;> exact traceKept_of_eq rfl rfl rfl rfl rfl rfl

theorem declareTrigger_traceKept (src : TriggerSource) (s : State) : TraceKept s (declareTrigger src s) := by
  unfold declareTrigger
  dsimp only
  refine TraceKept.trans ?_ (postTrigger_traceKept _)
  refine TraceKept.trans ?_ (pulseXt_traceKept _)
  refine TraceKept.trans ?_ (placeTrigger_traceKept _ _)
  refine TraceKept.trans ?_ (raiseEvent_traceKept _ _)
  exact traceKept_of_eq rfl rfl rfl rfl rfl rfl

theorem completeStage_traceKept (src : TriggerSource) (s : State) : TraceKept s (completeStage src s) := by
  unfold completeStage
  split
  · exact traceKept_of_eq rfl rfl rfl rfl rfl rfl
  · exact declareTrigger_traceKept src s

theorem takeHit_traceKept (hit : Fin 9) (s : State) : TraceKept s (takeHit hit s) := by
  unfold takeHit
  split
  · split
    · exact traceKept_of_eq rfl rfl rfl rfl rfl rfl
    split
    · have h : TraceKept s { s with seq := { s.seq with occ := s.seq.occ + 1 } } :=
        traceKept_of_eq rfl rfl rfl rfl rfl rfl
      dsimp only
      split
      · exact h.trans (completeStage_traceKept _ _)
      · exact h
    · exact .refl s
  · exact .refl s

theorem takeHits_traceKept (hits : List (Fin 9)) (s : State) :
    TraceKept s (hits.foldl (fun t h => takeHit h t) s) := by
  induction hits generalizing s with
  | nil => exact .refl s
  | cons h rest ih => exact (takeHit_traceKept h s).trans (ih _)

theorem takeGroup_traceKept (start : Nat) (group : BitVec 8) (s : State) :
    TraceKept s (takeGroup start group s) := by
  unfold takeGroup
  split
  · exact takeHits_traceKept _ s
  · exact .refl s

theorem evaluate_traceKept (point : Slot → SlotProgress → SlotProgress × Bool) (s : State) :
    TraceKept s (evaluate point s) := by
  unfold evaluate
  split
  · exact .refl s
  · next e _ =>
    exact TraceKept.trans (t := { s with mu := { s.mu with eval := some (e.after point) } })
      (traceKept_of_eq rfl rfl rfl rfl rfl rfl) (takeGroup_traceKept _ _ _)

theorem expireStage_traceKept (s : State) : TraceKept s (expireStage s) := by
  unfold expireStage
  dsimp only
  split
  · exact (raiseEvent_traceKept _ s).trans (traceKept_of_eq rfl rfl rfl rfl rfl rfl)
  · exact (raiseEvent_traceKept _ s).trans (completeStage_traceKept _ _)

/-- The end of a member frame whose kept bytes are within the limits (R29, R90). -/
theorem memberFrameEnd_traceKept (ctx : FrameContext) (hits : BitVec 8) (f : CurrentFrame) (s : State)
    (hc : ctx.stored.length ≤ 256) : TraceKept s (memberFrameEnd ctx hits f s) := by
  unfold memberFrameEnd
  dsimp only
  split
  · intro hs
    refine offerFrame_traceKept _ _ _ hc (traceKept_of_eq rfl rfl rfl rfl rfl rfl hs)
  · exact traceKept_of_eq rfl rfl rfl rfl rfl rfl

theorem captureFrameEnd_traceKept (ctx : FrameContext) (hits : BitVec 8) (s : State)
    (hc : ctx.stored.length ≤ 256) : TraceKept s (captureFrameEnd ctx hits s) := by
  unfold captureFrameEnd
  dsimp only
  split
  · split
    · exact (memberFrameEnd_traceKept ctx hits _ s hc).trans (traceKept_of_eq rfl rfl rfl rfl rfl rfl)
    · exact traceKept_of_eq rfl rfl rfl rfl rfl rfl
  · exact traceKept_of_eq rfl rfl rfl rfl rfl rfl

end Sys2Proof.Machine
end

