-- ==== Sys2Proof/WellFormed.lean ====
section
/-! DEFINITION. Which commands are well formed. Every field of a command is as wide as its argument byte or
line set, and a service command's argument values are judged at the taking (R158), so the one check left is
that of UNKNOWN COMMAND, whose code names no command (R160), and of ARGUMENT BYTE, which is any byte and any levels. -/

namespace Sys2Proof

/-- A well-formed command: UNKNOWN COMMAND carries a code outside the command list (R160, R190). -/
def Instr.wellFormed : Instr → Bool
  | .unknownCommand code => (commandArgs code).isNone
  | _ => true

end Sys2Proof
end

