-- ==== Sys2Proof/Tests/Slice0.lean ====
section
/-! SUPPORT. Own tests: one step each, on small states; expected results from the spec's examples and tables. Then a
witness for the hypotheses of each statement. -/

namespace Sys2Proof.Tests
open Sys2Proof Sys2Proof.Machine

/-! ### Helpers -/

/-- The state a step answers, or the state given where it answers none. -/
def after (o : Host.Outcome State Fault Refusal) (s : State) : State :=
  match o with
  | .next t => t
  | _ => s

/-- The reply a step leaves in the buffer. -/
def replyTo (i : Instr) (s : State) : Option Reply := (after (exec i s) s).sp.reply

/-- A service frame in COMMAND with these bytes received. -/
def received (bytes : List Byte) (s : State) : State :=
  { s with sSel := true, sp := { s.sp with frame := .command bytes, bits := [] } }

/-- The context of a frame just begun by select 0. -/
def begun : FrameContext := openContext 0 State.reset

/-- A state IN FRAME on select 0 with a context. -/
def framed (ctx : FrameContext) : State :=
  { State.reset with hSel := 1, tap := { State.reset.tap with boundary := .inFrame ctx } }

/-- A state in a capture state. -/
def inState (c : CaptureState) : State := { State.reset with cc := { State.reset.cc with state := c } }

/-- A state with one GAP record held. -/
def oneHeld : State :=
  appendRecord (.gap { number := 7, startTime := 9, count := 2 }) false State.reset

/-- The entry for 0xA7 of the example in 2.1. -/
def readEntry : OpcodeEntry :=
  { opcode := 0xA7, kind := .read, addrBytes := .three, addrWidth := .one, wait := 8,
    direction := .fromMemory, dataWidth := .four }

/-- The arguments of its PUT. -/
def readArgs : OpcodeEntryArgs :=
  { opcode := 0xA7, kind := 0, addrBytes := 3, addrWidth := 1, wait := 8, direction := 2, dataWidth := 4 }

/-- A lane set that gives D3 to D0 as high, low, high, low, driven by the host. -/
def lanes1010 : LinkLanes := { d3 := .host true, d2 := .host false, d1 := .host true, d0 := .host false }

/-! ### Syntax, well-formedness, decoding -/

theorem test_unknown_command_of_a_known_code_ill_formed : (Instr.unknownCommand 0x32).wellFormed = false := by decide
theorem test_unknown_command_of_no_code_well_formed : (Instr.unknownCommand 0x05).wellFormed = true := by decide
theorem test_no_table_word_spells_a_command : decodeTableWord 32 0xFFFFFFFF = none := rfl
theorem test_no_word_no_change : State.reset.withFetchWord 8 1 = State.reset := rfl

/-! ### Supply (R3, R166, R177) -/

theorem test_power_up_reaches_reset :
    exec .powerOnResetEnd (after (exec .powerOn State.reset) State.reset) = .next State.reset := rfl
theorem test_power_loss_releases_attn : (after (exec .powerLoss State.reset) State.reset).attnPin = false := by decide

/-! ### The link (1.5, 2.2, 2.3) -/

/-- R9: on four lanes D3 is the most significant bit; on one lane D0 alone counts. -/
theorem test_lanes_sampled : sampleBits 4 lanes1010 = 0b1010 ∧ sampleBits 1 lanes1010 = 0 := by decide

/-- R8: with H_CLK away from the idle level when the frame begins, the clock's return and nothing else is seen, and the
next edge is the frame's first pulse. -/
theorem test_clock_returns_before_first_pulse :
    exec (.samplingEdge { clock := false, lanes := lanes1010 }) { framed begun with hClk := true } =
      .next { framed begun with lanes := lanes1010 } := by rfl
theorem test_edge_is_a_pulse :
    (after (exec (.samplingEdge { clock := true, lanes := lanes1010 }) (framed begun)) State.reset).tap.boundary =
      .inFrame { begun with target := some (.sel 0), decoding := .opcode 1 0 } := by decide

/-- R1: M_CLK follows H_CLK back to the idle level. -/
theorem test_memory_clock_returns :
    (after (exec (.samplingEdge { clock := false, lanes := lanes1010 }) { framed begun with hClk := true })
      State.reset).mClk = some false := by decide

/-- R28, example of 2.3: the third word of a frame at 0x01FFFA lies at 0x020002. -/
theorem test_third_word_address :
    { begun with entry := some readEntry, address := some 0x01FFFA, wordOffset := 8 }.dataWord.address =
      some 0x020002 := by decide

/-- R28: a word address wraps within the address bytes. -/
theorem test_word_address_wraps :
    { begun with entry := some readEntry, address := some 0xFFFFFE, wordOffset := 4 }.dataWord.address =
      some 0x000002 := by decide

/-- R33, example of 2.3: a frame cut after 36 pulses, in WAIT, is TRUNCATED and has no RESIDUE. -/
theorem test_cut_in_wait :
    ({ begun with decoding := .wait 4 }.closed false).truncated = true ∧
    ({ begun with decoding := .wait 4 }.closed false).residue = false := by decide

/-! ### Slots (3.4, the example with 0xAABBCCDD and a partial 0x1122) -/

theorem test_partial_word_agrees : agrees 0xFFFF0000 0x11220000 0x11220000 = true := by decide
theorem test_first_word_agrees_under_half_mask : agrees 0xFFFF0000 0xAABBCCDD 0xAABB0000 = true := by decide
theorem test_mask_on_absent_byte_not_compared :
    { Slot.reset with mask := 0xFFFFFF00 }.compares { value := 0x11220000, first := false, bytes := 2, address := none }
      = false := by decide

/-! ### The trace and events (R90, R91, R168, R188, R189) -/

theorem test_gap_is_32_bytes : (Record.gap { number := 7, startTime := 9, count := 2 }).bytes.length = 32 := by decide
theorem test_held_gap_takes_4_units : oneHeld.tm.free = 16380 := by decide

/-- R168: the 16th position goes to EVENTS_LOST. -/
theorem test_sixteenth_event_is_lost :
    ((raiseEvent (.holdOn 1)
      { State.reset with sp := { State.reset.sp with
        queue := List.replicate 15 { event := .restarted .pin, time := 0 } } }).sp.queue.getLast?.map Entry.event)
      = some (.eventsLost 1) := by decide

/-! ### Service commands: replies (R19, R43, R83, R165, R171, R187) -/

theorem test_put_entry_new_at_position_0 :
    replyTo (.putOpcodeEntry readArgs) (received (0x10 :: readArgs.bytes).dropLast State.reset) =
      some { status := .ok, payload := [0, 0] } := by decide
theorem test_put_entry_five_address_bytes :
    replyTo (.putOpcodeEntry { readArgs with addrBytes := 5 })
      (received (0x10 :: { readArgs with addrBytes := 5 }.bytes).dropLast State.reset) =
      some { status := .badArg, payload := [] } := by decide
theorem test_next_event_restarted :
    replyTo .nextEvent (received [] State.reset) =
      some { status := .ok, payload := [1, 0, 0, 0, 0, 0, 0, 0, 0, 0] } := by decide
theorem test_arm_window_reports_pretrig :
    replyTo (.arm 0 0) (received [0x32, 0] State.reset) = some { status := .ok, payload := [2] } := by decide
theorem test_arm_on_sync_needs_a_follower :
    replyTo (.arm 0 1) (received [0x32, 0] State.reset) = some { status := .badArg, payload := [0] } := by decide
theorem test_stop_not_active :
    replyTo .stop (received [] State.reset) = some { status := .notActive, payload := [0] } := by decide
theorem test_read_tally_row_5 :
    replyTo (.readTally 5) (received [0x62] State.reset) = some { status := .badArg, payload := [] } := by decide
theorem test_command_not_awaited : exec (.readTally 5) State.reset = .next State.reset := by rfl
theorem test_put_sequence_4 :
    (after (exec (.putSequence 4) (received [0x2A] State.reset)) State.reset).seq.count = 4 := by decide
theorem test_mark_of_empty_trace :
    replyTo .mark (received [] State.reset) = some { status := .empty, payload := [] } := by decide

/-! ### Ticks (R142, R71) -/

theorem test_tick_counts : (after (exec .timebaseTick State.reset) State.reset).tb.time = 1 := by decide
theorem test_time_wraps :
    (after (exec .timebaseTick { State.reset with tb := { State.reset.tb with time := 0xFFFFFFFFFF } })
      State.reset).tb.time = 0 := by decide

/-! ### Witnesses: the hypotheses of each statement are met -/

/-- A sound state, with a command waiting. -/
def ready : State := { State.reset with pending := [.timebaseTick] }

theorem witness_step_idle : ∃ s : State, s.pending = [] := ⟨State.reset, rfl⟩
theorem witness_trace_sound : TraceSound ready ∧ ∃ t, step ready = .next t := by
  refine ⟨?_, _, rfl⟩
  simp [TraceSound, ready, State.reset, TraceMemory.reset, Readout.reset, Capture.reset, Capture.fresh, Setup.reset,
    unitsOf]
theorem witness_records_distinct : RecordsDistinct oneHeld ∧ ∃ t, step oneHeld = .next t := by
  refine ⟨?_, _, rfl⟩
  simp [RecordsDistinct, oneHeld, appendRecord, State.reset, TraceMemory.reset, Readout.reset]
theorem witness_queue_sound : QueueSound ready.sp.queue ∧ ∃ t, step ready = .next t :=
  ⟨by simp [QueueSound, ready, State.reset]; decide, _, rfl⟩
theorem witness_sequencer_sound : SequencerSound ready ∧ ∃ t, step ready = .next t :=
  ⟨by simp [SequencerSound, ready, State.reset, Sequencer.reset]; decide, _, rfl⟩
theorem witness_watermark_sound : WatermarkSound ready ∧ ∃ t, step ready = .next t :=
  ⟨by simp [WatermarkSound, ready, State.reset, Readout.reset], _, rfl⟩
theorem witness_hold_sound : HoldSound ready ∧ ∃ t, step ready = .next t :=
  ⟨by simp [HoldSound, ready, State.reset, TraceMemory.reset]; decide, _, rfl⟩
theorem witness_boundary_sound : BoundarySound ready ∧ ∃ t, step ready = .next t :=
  ⟨by simp [BoundarySound, ready, State.reset, State.inReset, LinkTap.reset], _, rfl⟩
theorem witness_place_sound : BoundarySound ready ∧ PlaceSound ready ∧ ∃ t, step ready = .next t :=
  ⟨witness_boundary_sound.1, by simp [PlaceSound, ready, State.reset, ServicePort.reset], _, rfl⟩
theorem witness_pre_trigger_sound : PreTriggerSound ready ∧ ∃ t, step ready = .next t :=
  ⟨by simp [PreTriggerSound, ready, State.reset, Capture.reset, Capture.fresh, CaptureState.isActive], _, rfl⟩
theorem witness_evaluation_sound : EvaluationSound ready ∧ ∃ t, step ready = .next t :=
  ⟨by simp [EvaluationSound, ready, State.reset, MatchUnit.reset], _, rfl⟩

/-- The table of 2.1 with 0xA7 alone, at position 0. -/
def oneEntry : State := { State.reset with opTable := OpcodeTable.reset.set 0 (some readEntry) }

theorem oneEntry_get (i : Fin 32) : oneEntry.opTable.get i = if i = 0 then some readEntry else none := by
  revert i; decide
theorem oneEntry_unique : OpcodesUnique oneEntry.opTable := by
  intro i j e f hi hj _
  rw [oneEntry_get] at hi hj
  by_cases h : i = 0 <;> by_cases k : j = 0 <;> simp_all
theorem witness_opcode_positions :
    OpcodesUnique oneEntry.opTable ∧ (∃ t, exec .timebaseTick oneEntry = .next t) ∧
    hardReset .timebaseTick = false ∧ Instr.timebaseTick ≠ .dropOpcodeEntry 0xA7 ∧
    oneEntry.opTable.get 0 = some readEntry := ⟨oneEntry_unique, ⟨_, rfl⟩, rfl, by decide, by decide⟩
theorem witness_tally_bounded :
    ready.tally.live.bounded ∧ ready.tally.snap.bounded ∧ (∃ t, step ready = .next t) ∧
    (∃ t, exec .timebaseTick ready = .next t) ∧ hardReset .timebaseTick = false ∧
    Instr.timebaseTick ≠ .tallySnapshot 1 := by
  refine ⟨?_, ?_, ⟨_, rfl⟩, ⟨_, rfl⟩, rfl, by decide⟩ <;> unfold TallyTable.bounded TallyRow.bounded <;> decide
theorem witness_session_active :
    (inState .waitSync).sessionActive = true ∧ (inState .streaming).sessionActive = true ∧
    hardReset .timebaseTick = false ∧ ∃ t, exec .timebaseTick (inState .waitSync) = .next t :=
  ⟨rfl, rfl, rfl, _, rfl⟩
theorem witness_service_bytes : ∃ i : Instr, ∃ b, i.serviceBytes = some b := ⟨.arm 0 1, _, rfl⟩
theorem witness_repeaters :
    State.reset ≠ framed begun ∧
    (∀ l, Instr.timebaseTick ≠ .opcodeComplete l ∧ Instr.timebaseTick ≠ .addressComplete l ∧
      Instr.timebaseTick ≠ .waitDone l ∧ Instr.timebaseTick ≠ .dataByteComplete l ∧
      Instr.timebaseTick ≠ .trailPulse l ∧ Instr.timebaseTick ≠ .opaquePulse l) ∧
    State.reset.powered = (inState .streaming).powered ∧ State.reset.hSel = (inState .streaming).hSel ∧
    State.reset.hClk = (inState .streaming).hClk ∧ State.reset.lanes = (inState .streaming).lanes ∧
    (∃ t, exec .timebaseTick State.reset = .next t) ∧ ∃ t, exec .timebaseTick (inState .streaming) = .next t :=
  ⟨by decide, by simp, rfl, rfl, rfl, rfl, ⟨_, rfl⟩, _, rfl⟩
theorem witness_pin_reset : State.reset.powered = true ∧ State.reset.resetLow = false := ⟨rfl, rfl⟩
theorem witness_leaving_reset :
    (∃ s : State, s.powered = true ∧ s.porActive = true ∧ s.resetLow = false) ∧
    (∃ s : State, s.powered = true ∧ s.porActive = false ∧ s.resetLow = true) ∧
    ∃ s : State, s.powered = true ∧ s.porActive = true ∧ s.resetLow = true :=
  ⟨⟨{ State.reset with porActive := true }, rfl, rfl, rfl⟩, ⟨{ State.reset with resetLow := true }, rfl, rfl, rfl⟩,
    ⟨{ State.reset with porActive := true, resetLow := true }, rfl, rfl, rfl⟩⟩
theorem witness_resets_elsewhere :
    State.reset.porActive = false ∧ State.reset.resetLow = false ∧ { State.reset with resetLow := true }.resetLow = true ∧
    ({ State.reset with powered := false }.powered = false ∧ { State.reset with powered := false }.resetLow = false) ∧
    { State.reset with powered := false, resetLow := true }.resetLow = true := by decide

/-- HOLD asserted between frames, with its violation indication. -/
def held (violated : Bool) : State :=
  { State.reset with tm := { TraceMemory.reset with episode := some { ticks := 0, violated := violated } } }

theorem witness_select_opens :
    State.reset.tap.boundary = .idle ∧ State.reset.hSel = 0 ∧ State.reset.tm.episode = none ∧
    (held true).tap.boundary = .idle ∧ (held true).hSel = 0 ∧
    (held true).tm.episode = some { ticks := 0, violated := true } ∧
    (held false).tap.boundary = .idle ∧ (held false).hSel = 0 ∧
    (held false).tm.episode = some { ticks := 0, violated := false } := by decide

/-- A state with given selects and boundary state. -/
def lined (h : BitVec 4) (b : Boundary) : State :=
  { State.reset with hSel := h, tap := { State.reset.tap with boundary := b } }

theorem witness_selects_elsewhere :
    (lined 8 .skipping).hSel.getLsbD 3 = true ∧
    ((lined 1 (.inFrame begun)).hSel.getLsbD 3 = false ∧ (lined 1 (.inFrame begun)).hSel ≠ 0 ∧
      (lined 1 (.inFrame begun)).tap.boundary = .inFrame begun) ∧
    ((lined 1 .off).hSel.getLsbD 3 = false ∧ (lined 1 .off).tap.boundary = .off) ∧
    (lined 0 .idle).hSel.getLsbD 0 = false ∧
    ((lined 9 .skipping).hSel.getLsbD 0 = true ∧ (lined 9 .skipping).hSel ≠ selectBit 0) ∧
    ((lined 8 .reset).hSel = selectBit 3 ∧ (lined 8 .reset).tap.boundary = .reset) ∧
    ((lined 8 .skipping).hSel = selectBit 3 ∧ (lined 8 .skipping).tap.boundary = .skipping) := by decide
theorem witness_frame_end_outside_session :
    (framed begun).hSel = selectBit 0 ∧ (framed begun).tap.boundary = .inFrame begun ∧
    (∀ f, (framed begun).cc.current = some f → f.member = false) ∧ (framed begun).mu.eval = none :=
  ⟨rfl, rfl, nofun, rfl⟩

/-- A frame still evaluated after a STOP: no member, the sequencer IDLE. -/
def stoppedFrame : State :=
  { framed begun with
    mu := (frameOpened 0 false (inState .streaming)).mu
    cc := { Capture.reset with
      state := .complete .stopped, current := some { number := some 0, member := false, pending := false } } }

theorem witness_stopped_frame_ends :
    stoppedFrame.hSel = selectBit 0 ∧ stoppedFrame.tap.boundary = .inFrame begun ∧
    (∀ f, stoppedFrame.cc.current = some f → f.member = false) ∧
    ∃ e, stoppedFrame.mu.eval = some e ∧ (stoppedFrame.seq.state ≠ .watching ∨ e.start ≤ stoppedFrame.seq.sessionStart) :=
  ⟨rfl, rfl, by rintro f h; cases h; rfl, _, rfl, .inl (by decide)⟩

/-- A member frame in STREAMING, the trigger declared on it or not. -/
def member (kinds : BitVec 6) (pending : Bool) : State :=
  { framed begun with
    seq := { Sequencer.reset with state := .triggered }
    cc := { Capture.reset with
      setup := { Setup.reset with mode := .stream, filterKinds := kinds }
      state := .streaming, current := some { number := some 0, member := true, pending := pending } } }

theorem witness_member_frame :
    (∀ k p, (member k p).hSel = selectBit 0 ∧ (member k p).tap.boundary = .inFrame begun ∧
      (matchFrameEnd (begun.closed false) { member k p with hSel := 0 }).cc.current =
        some { number := some 0, member := true, pending := p } ∧
      (matchFrameEnd (begun.closed false) { member k p with hSel := 0 }).cc.state.storing = true) ∧
    qualifies (member 0 false).cc (begun.closed false) 0 false = false ∧
    qualifies (member 0 true).cc (begun.closed false) 0 true = true ∧
    ((member 63 false).cc.loss = none ∧ (member 63 false).seq.state = .triggered ∧
      qualifies (member 63 false).cc (begun.closed false) 0 false = true ∧
      (Record.frame (frameRecord (begun.closed false) 0 0 none false)).units ≤ (member 63 false).tm.free) :=
  ⟨fun _ _ => ⟨rfl, rfl, rfl, rfl⟩, by decide⟩
theorem witness_settled_target :
    (∃ n : Fin 4, (begun.closed false).target = some (.sel n) ∧ 0 = n.val) ∧
    ({ begun with target := some .multiple }.target = some .multiple ∧ 4 = 4) := by decide
theorem witness_target :
    { begun with target := some (.sel 2) }.target = some (.sel 2) ∧ begun.target = none ∧
    (∃ i j : Fin 4, i ≠ j ∧ (9 : BitVec 4).getLsbD i.val = true ∧ (9 : BitVec 4).getLsbD j.val = true) ∧
    ¬(∃ i j : Fin 4, i ≠ j ∧ (8 : BitVec 4).getLsbD i.val = true ∧ (8 : BitVec 4).getLsbD j.val = true) := by
  decide
theorem witness_sampling_edge :
    (∀ ctx, (lined 8 .skipping).tap.boundary ≠ .inFrame ctx) ∧ (framed begun).tap.boundary = .inFrame begun ∧
    { framed begun with hClk := true }.hClk ≠ begun.idleLevel :=
  ⟨fun _ h => (by cases h), rfl, by decide⟩

/-- A context in a decoding state, on the entry of the example. -/
def decodingIn (d : Decoding) : FrameContext := { begun with decoding := d, entry := some readEntry }

theorem witness_framed (d : Decoding) :
    (framed (decodingIn d)).tap.boundary = .inFrame (decodingIn d) ∧
      (framed (decodingIn d)).hClk = (decodingIn d).idleLevel := ⟨rfl, rfl⟩
theorem witness_shifts :
    ((decodingIn (.opcode 6 0)).decoding = .opcode 6 0 ∧ 6 + (decodingIn (.opcode 6 0)).opcodeLanes.bits < 8) ∧
    ((decodingIn (.address 22 0)).entry = some readEntry ∧
      22 + readEntry.addrWidth.bits < 8 * AddrBytes.toNat readEntry.addrBytes) ∧
    (6 + 1 < readEntry.wait.val) ∧ 3 + readEntry.dataWidth.bits < 8 := by decide
theorem witness_opcode_complete :
    (framed (decodingIn (.opcode 7 0x53))).tap.boundary = .inFrame (decodingIn (.opcode 7 0x53)) ∧
    8 ≤ 7 + (decodingIn (.opcode 7 0x53)).opcodeLanes.bits ∧
    oneEntry.opTable.lookup 0xA7 = some readEntry ∧ readEntry.addrBytes ≠ .zero ∧
    State.reset.opTable.lookup 0xA7 = none := by decide
theorem witness_lookup :
    OpcodesUnique oneEntry.opTable ∧ oneEntry.opTable.get 0 = some readEntry ∧ readEntry.opcode = 0xA7 ∧
    ∀ i e, oneEntry.opTable.get i = some e → e.opcode ≠ 0x9F := by
  refine ⟨oneEntry_unique, by decide, rfl, ?_⟩
  intro i e h
  rw [oneEntry_get] at h
  split at h <;> cases h
  decide
theorem witness_lanes : lanes1010.d0 = .host false ∧ lanes1010.d1 = .host true ∧ lanes1010.d2 = .host false ∧
    lanes1010.d3 = .host true := by decide
theorem witness_address_complete :
    (framed (decodingIn (.address 23 0))).tap.boundary = .inFrame (decodingIn (.address 23 0)) ∧
    (decodingIn (.address 23 0)).entry = some readEntry ∧
    8 * AddrBytes.toNat readEntry.addrBytes ≤ 23 + readEntry.addrWidth.bits := by decide
theorem witness_byte_complete :
    (decodingIn (.data 4 0)).entry = some readEntry ∧ 8 ≤ 4 + readEntry.dataWidth.bits ∧
    { decodingIn (.data 4 0) with word := [1, 2] }.word.length < 3 ∧
    { decodingIn (.data 4 0) with word := [1, 2, 3] }.word = [1, 2, 3] := by decide
theorem witness_wait_trail_opaque :
    readEntry.wait.val ≤ 7 + 1 ∧ (decodingIn (.wait 7)).entry = some readEntry ∧
    (decodingIn .trail).decoding = .trail ∧ { begun with decoding := .unlisted }.decoding = .unlisted := by decide
theorem witness_tally_targets :
    { begun with target := some .multiple }.target = some .multiple ∧
    { begun with target := some (.sel 3) }.target = some (.sel 3) ∧
    (match (decodingIn .trail).entry with
      | none => (5 : Fin 6)
      | some e => match e.kind with
        | .read => 0
        | .write => 1
        | .erase => 2
        | .control => 3
        | .status => 4
        | .unlisted => 5) = 0 := by decide

/-- A slot that asks of every frame, with a condition and a scope. -/
def asking (c : DataCondition) (sc : Scope) : Slot :=
  { Slot.reset with enabled := true, targets := 31, kinds := 63, condition := c, scope := sc }

/-- A whole word of zeros. -/
def zeroWord : DataWord := { value := 0, first := true, bytes := 4, address := none }

theorem witness_word_agrees :
    (asking .word .any).condition = .word ∧ (asking .word .any).scope = .any ∧
    (asking .word .any).frameMeets begun = true ∧ (asking .word .any).windowMeets zeroWord.address = true ∧
    zeroWord.bytes ≤ 4 ∧
    { asking .word .any with mask := 1 }.compares { zeroWord with bytes := 3 } = false ∧
    (0x80000000 : Word32).getLsbD 31 = true := by decide
theorem witness_slot_done :
    { SlotProgress.fresh with done := true }.done = true ∧ SlotProgress.fresh.done = false ∧
    State.reset.mu.eval = none ∧
    (∃ e, (frameOpened 0 false (inState .streaming)).mu.eval = some e) := ⟨rfl, rfl, rfl, _, rfl⟩
theorem witness_points :
    (noneAt begun (asking .none .any) SlotProgress.fresh).2 = true ∧
    (anomalyAt { begun with truncated := true } { asking .anomaly .any with anomalies := 1 } SlotProgress.fresh).2
      = true ∧
    (decodingIn (.data 0 0)).decoding = .data 0 0 ∧ (decodingIn (.data 0 0)).entry = some readEntry ∧
    { decodingIn (.data 0 0) with word := [1, 2] }.word = [1, 2] ∧ begun.word = [] := by decide
theorem witness_word_slot :
    (asking .word .any).condition = .word ∧ (asking .word .first).scope = .first ∧
    hitsAmong begun (asking .word .first) SlotProgress.fresh [zeroWord] = true ∧ (∀ w ∈ [zeroWord], w.bytes = 4) := by
  decide
theorem witness_pair_slot :
    (asking .pair .any).condition = .pair ∧ (asking .pair .first).scope = .first ∧
    hitsAmong begun (asking .pair .first) SlotProgress.fresh [zeroWord, zeroWord] = true ∧
    (∀ w ∈ [zeroWord, zeroWord], w.bytes = 4) := by decide

/-- A partial last word of zeros, three of its bytes present. -/
def partialWord : DataWord := { zeroWord with first := false, bytes := 3 }

theorem witness_partial_words :
    (∀ w ∈ [partialWord], 1 ≤ w.bytes ∧ w.bytes ≤ 3) ∧ [partialWord].length ≤ 1 ∧
    (asking .pair .first).compares partialWord = true ∧
    hitsAmong begun (asking .pair .first) SlotProgress.fresh ([zeroWord] ++ [partialWord]) = true ∧
    hitsAmong begun (asking .word .first) SlotProgress.fresh ([] ++ [partialWord]) = true := by decide

/-- WATCHING in stage `k` of `n`, with every hit in the advance set and X in the restart set too. -/
def watching (n : Nat) (k : Fin 4) (g : Stage) (timer : Option Nat) : State :=
  { inState .streaming with
    seq := { Sequencer.reset with
      state := .watching, count := n, stage := k, stages := Vector.replicate 4 g, timer := timer } }

/-- A descriptor with slots 0 to 7 advancing and X restarting, timeout 5. -/
def stageOf (required : Nat) (action : TimeoutAction) : Stage :=
  { advance := 0x0FF, required := required, restart := 0x100, timeout := 5, action := action }

theorem witness_group :
    State.reset.seq.state ≠ .watching ∧
    ((watching 1 0 (stageOf 1 .restart) none).seq.state = .watching ∧
      (watching 1 0 (stageOf 1 .restart) none).seq.sessionStart < 1) ∧
    (0x01 : BitVec 8).getLsbD 0 = true ∧
    (watching 1 0 { stageOf 1 .restart with restart := 1 } none).seq.current.restart.getLsbD 0 = true := by decide
theorem witness_hit :
    State.reset.seq.state ≠ .watching ∧
    ((watching 1 0 (stageOf 1 .restart) none).seq.state = .watching ∧
      (watching 1 0 (stageOf 1 .restart) none).seq.current.restart.getLsbD 8 = true) ∧
    ((watching 1 0 { stageOf 1 .restart with advance := 0 } none).seq.current.restart.getLsbD 0 = false ∧
      (watching 1 0 { stageOf 1 .restart with advance := 0 } none).seq.current.advance.getLsbD 0 = false) ∧
    ((watching 4 2 (stageOf 1 .restart) none).seq.current.restart.getLsbD 7 = false ∧
      (watching 4 2 (stageOf 1 .restart) none).seq.current.advance.getLsbD 7 = true ∧
      (watching 4 2 (stageOf 2 .restart) none).seq.occ + 1 ≠ (stageOf 2 .restart).required ∧
      (watching 4 2 (stageOf 1 .restart) none).seq.occ + 1 = (stageOf 1 .restart).required ∧
      (3 : Fin 4).val = (watching 4 2 (stageOf 1 .restart) none).seq.stage.val + 1 ∧
      (3 : Fin 4).val < (watching 4 2 (stageOf 1 .restart) none).seq.count ∧
      (watching 4 3 (stageOf 1 .restart) none).seq.count ≤
        (watching 4 3 (stageOf 1 .restart) none).seq.stage.val + 1) := by decide
theorem witness_stage_timeout :
    (watching 4 2 (stageOf 1 .restart) (some 4)).seq.expired = false ∧
    ((watching 4 2 (stageOf 1 .restart) (some 5)).seq.timer = some 5 ∧
      (watching 4 2 (stageOf 1 .restart) (some 5)).seq.current.timeout ≤ 5 ∧
      (watching 4 2 (stageOf 1 .restart) (some 5)).seq.current.action = .restart) ∧
    ((watching 4 2 (stageOf 1 .advance) (some 5)).seq.current.action = .advance ∧
      (3 : Fin 4).val < (watching 4 2 (stageOf 1 .advance) (some 5)).seq.count ∧
      (watching 4 3 (stageOf 1 .advance) (some 5)).seq.count ≤ 3 + 1) := by decide
/-- WATCHING in the only stage, with a given Capture Controller. -/
def watchingWith (c : Capture) : State :=
  { watching 1 0 (stageOf 1 .restart) none with cc := c }

/-- The Capture Controller in STREAMING under the policy STOP with a loss run pending. -/
def losing : Capture :=
  { (inState .streaming).cc with loss := some { number := 3, startTime := 5, count := 2 } }

theorem witness_marker_after_losses :
    (watchingWith losing).seq.state = .watching ∧ (watchingWith losing).cc.current = none ∧
    (watchingWith losing).cc.state = .streaming ∧ 8 ≤ (watchingWith losing).tm.free ∧
    { watchingWith losing with tm := { TraceMemory.reset with free := 7 } }.tm.free <
      (if (watchingWith losing).cc.loss = none then 4 else 8) ∧
    (watchingWith losing).cc.setup.policy = .stop ∧ { Setup.reset with policy := .drop }.policy ≠ .stop := by decide
theorem witness_declaration :
    ((watchingWith (member 63 false).cc).seq.state = .watching ∧
      ∃ f, (watchingWith (member 63 false).cc).cc.current = some f ∧ f.member = true) ∧
    ((watchingWith (inState .streaming).cc).seq.state = .watching ∧
      (∀ f, (watchingWith (inState .streaming).cc).cc.current = some f → f.member = false) ∧
      (watchingWith (inState .streaming).cc).cc.state = .streaming ∧
      (watchingWith (inState .streaming).cc).cc.loss = none ∧ 4 ≤ (watchingWith (inState .streaming).cc).tm.free) ∧
    ((watchingWith (inState .pretrig).cc).seq.state = .watching ∧
      (∀ f, (watchingWith (inState .pretrig).cc).cc.current = some f → f.member = false) ∧
      (watchingWith (inState .pretrig).cc).cc.state = .pretrig ∧
      (watchingWith (inState .pretrig).cc).cc.setup.post ≠ 0 ∧
      { Setup.reset with post := 0 }.post = 0) :=
  ⟨⟨rfl, _, rfl, rfl⟩, ⟨rfl, nofun, rfl, rfl, by decide⟩, rfl, nofun, rfl, by decide, rfl⟩

/-- PRETRIG with one pre-trigger record held and P at its count, so that an offer needs one discard; `mark`
says whether the record is marked. -/
def pretrig (mark : Option Nat) : State :=
  { inState .pretrig with
    cc := { Capture.reset with
      setup := { Setup.reset with depth := 1 }, state := .pretrig, preCount := 1 }
    tm := { TraceMemory.reset with
      trace := [{ id := 0, record := .frame (frameRecord begun 0 0 none false), pre := true }]
      nextId := 1, free := 16380 }
    ru := { Readout.reset with mark := mark } }

theorem witness_pretrig_offer (mark : Option Nat) (hm : mark = none ∨ mark = some 0) :
    TraceSound (pretrig mark) ∧ (pretrig mark).cc.state = .pretrig ∧
    (Record.frame (frameRecord begun 0 0 none false)).units ≤ 36 ∧ 1 ≤ (pretrig mark).tm.trace.length ∧
    offerUnits (.frame (frameRecord begun 0 0 none false)) (pretrig mark) ≤
      (pretrig mark).tm.free + unitsOf ((pretrig mark).tm.trace.take 1) ∧
    1 ≤ preRecords ((pretrig mark).tm.trace.take 1) ∧
    (∀ j < 1, (pretrig mark).cc.setup.depth ≤ (pretrig mark).cc.preCount ∧
      1 ≤ preRecords (pretrig mark).tm.trace ∧ preRecords ((pretrig mark).tm.trace.take j) = 0) := by
  rcases hm with rfl | rfl <;> refine ⟨?_, rfl, by decide, by decide, by decide, by decide, by decide⟩ <;>
    simp [TraceSound, pretrig, inState, State.reset, Readout.reset, unitsOf, Record.units, frameRecord, begun,
      openContext, Setup.reset, LinkTap.reset, Config.headerUnits, Config.traceUnits]
theorem witness_frame_offers :
    (inState .posttrig).cc.state = .posttrig ∧ (inState .streaming).cc.state = .streaming ∧
    (offer (.frame (frameRecord begun 0 0 none false)) false (inState .posttrig)).1 = true ∧
    (offer (.frame (frameRecord begun 0 0 none false)) false (inState .streaming)).1 = true ∧
    ({ inState .streaming with tm := { TraceMemory.reset with free := 3 } }.tm.free <
      offerUnits (.frame (frameRecord begun 0 0 none false))
        { inState .streaming with tm := { TraceMemory.reset with free := 3 } }) ∧
    (inState .pretrig).cc.state = .pretrig := by decide
theorem witness_completion :
    (∃ s : State, (∃ run, s.cc.loss = some run) ∧ 4 ≤ s.tm.free) ∧ State.reset.cc.loss = none :=
  ⟨⟨{ State.reset with cc := { Capture.reset with loss := some { number := 0, startTime := 0, count := 1 } } },
    ⟨_, rfl⟩, by decide⟩, rfl⟩
theorem witness_judgements :
    (State.reset.unread = (inState .idle).unread ∧ State.reset.unread ≠ oneHeld.unread ∧
      State.reset.tm.free ≠ oneHeld.tm.free ∧ State.reset.cc.state ≠ (inState .streaming).cc.state) ∧
    (State.reset.ru.watermark = 0 ∧ { Readout.reset with watermark := 1 }.watermark ≠ 0 ∧
      { Readout.reset with watermark := 1, reached := true }.reached = true) ∧
    ((held false).tm.episode = some { ticks := 0, violated := false } ∧ State.reset.tm.episode = none) := by decide
theorem witness_tick :
    { State.reset with resetLow := true }.inReset = true ∧ State.reset.inReset = false ∧
    { Timebase.reset with syncPulse := some 7 }.syncPulse = some 7 ∧
    (watching 4 2 (stageOf 1 .restart) (some 4)).seq.timer = some 4 ∧
    4 < (watching 4 2 (stageOf 1 .restart) (some 4)).seq.current.timeout ∧
    (held false).tm.episode = some { ticks := 0, violated := false } ∧ (held false).cc.setup.holdLimit = 0 ∧
    { Timebase.reset with syncPulse := some 8 }.syncPulse = some 8 ∧
    (watching 4 2 (stageOf 1 .restart) (some 5)).seq.timer = some 5 ∧
    (watching 4 2 (stageOf 1 .restart) (some 5)).seq.current.timeout ≤ 5 := by decide
theorem witness_limits :
    ∃ s : State, (∃ e, s.tm.episode = some e ∧ s.cc.setup.holdLimit ≠ 0 ∧ s.cc.setup.holdLimit ≤ e.ticks) ∧
      (∃ n, s.tb.syncPulse = some n ∧ 8 ≤ n) ∧ ∃ p, s.tb.xtPulse = some p ∧ p.length ≤ p.ticks :=
  ⟨{ State.reset with
      tm := { TraceMemory.reset with episode := some { ticks := 5, violated := false } }
      cc := { Capture.reset with setup := { Setup.reset with holdLimit := 5 } }
      tb := { Timebase.reset with syncPulse := some 8, xtPulse := some { ticks := 4, length := 4 } } },
    ⟨_, rfl, by decide, by decide⟩, ⟨_, rfl, by decide⟩, ⟨_, rfl, by decide⟩⟩
/-- A FOLLOWER with XT input enabled, in a capture state. -/
def follower (c : CaptureState) : State :=
  { inState c with tb := { Timebase.reset with role := .follower, xtIn := true } }

theorem witness_chain_edges :
    ((follower .idle).inReset = false ∧ (follower .idle).tb.role = .follower ∧ (follower .idle).cc.state ≠ .waitSync) ∧
    ((follower .waitSync).inReset = false ∧ (follower .waitSync).tb.role = .follower ∧
      (follower .waitSync).cc.state = .waitSync) ∧
    ((follower .idle).tb.xtIn = true ∧ (follower .idle).tb.xtPulse = none) ∧
    State.reset.tb.role ≠ .follower ∧ State.reset.tb.xtIn = false := by decide

/-- The reset state with a given event queue. -/
def queued (q : List Entry) : State := { State.reset with sp := { State.reset.sp with queue := q } }

theorem witness_event_placed :
    (Event.holdOn 1).enabled 0 = false ∧ (Event.recordsLost 1).enabled State.reset.sp.mask = true ∧
    (∀ x : Entry, (queued [x]).sp.queue = [] ++ x :: [] ∧ (Event.recordsLost 1).enabled (queued [x]).sp.mask = true ∧
      (Event.cursorSkipped 1).enabled (queued [x]).sp.mask = true) ∧
    ((Event.watermark 1).isWatermark = true ∧
      ∃ x ∈ (queued [{ event := .watermark 1, time := 0 }]).sp.queue, x.event.isWatermark = true) ∧
    (¬ownKindHeld (.holdOn 1) State.reset.sp.queue ∧
      ¬ownKindHeld (.holdOn 1) (queued [{ event := .eventsLost 4294967295, time := 1 }]).sp.queue ∧
      (∀ x ∈ State.reset.sp.queue, x.event.isEventsLost = false) ∧ State.reset.sp.queue.length < 15 ∧
      (List.replicate 15 ({ event := .restarted .pin, time := 0 } : Entry)).length = 15) := by
  refine ⟨by decide, by decide, fun _ => ⟨rfl, (by decide : (Event.recordsLost 1).enabled State.reset.sp.mask = true),
    (by decide : (Event.cursorSkipped 1).enabled State.reset.sp.mask = true)⟩, ⟨rfl, by decide⟩, ?_, ?_, by decide, by decide, by decide⟩ <;>
    simp [ownKindHeld, Event.isRecordsLost, Event.isCursorSkipped, Event.isWatermark]
theorem witness_commands_leave_the_rest :
    (∃ t, exec .stageTimeout State.reset = .next t) ∧ (∃ t, exec .stop State.reset = .next t) ∧
    (∃ t, exec (.selectNegated 0) (framed begun) = .next t) ∧ (framed begun).hSel = selectBit 0 ∧
    ∃ t, exec (.samplingEdge { clock := true, lanes := lanes1010 }) (framed begun) = .next t :=
  ⟨⟨_, rfl⟩, ⟨_, rfl⟩, ⟨_, rfl⟩, rfl, _, rfl⟩
theorem witness_service_frame :
    State.reset.sSel = false ∧ State.reset.sp.frame = .noFrame ∧ (received [] State.reset).sSel = true ∧
    commandArgs 0x60 = some 1 ∧ commandArgs 0x05 = none ∧ commandArgs 0x01 = some 0 ∧
    ((received [0x03] State.reset).sp.frame = .command [0x03] ∧ commandArgs 0x03 = some 2 ∧ 0 + 1 < 2) ∧
    ((received [0x03, 0] State.reset).sp.frame = .command [0x03, 0] ∧ 2 ≤ 1 + 1) := by decide

/-- The port in COMMAND with some bits of a byte clocked. -/
def clocked (bits : List Bool) : State :=
  { received [] State.reset with
    sLine := { clock := false, data := true }, sp := { (received [] State.reset).sp with bits := bits } }

theorem witness_bits :
    ((clocked [false, false, true]).sp.bits <+: byteBits 0x32 ∧ ¬(clocked [true]).sp.bits <+: byteBits 0x32) ∧
    ((clocked [false, false, true]).sp.out = true ∧
      (clocked [false, false, true]).sp.bits ++ [true, false, false, true, false] = byteBits 0x32 ∧
      (after (exec (.argumentByte (.byte 0x32)) (clocked [false, false, true])) State.reset).sp.frame ≠
        (clocked [false, false, true]).sp.frame) ∧
    ((clocked []).sLine.clock = false ∧ (clocked []).sp.frame = .command [] ∧ (clocked []).sp.bits.length < 7 ∧
      (clocked (List.replicate 7 true)).sp.bits ++ [true] = byteBits 0xFF) ∧
    State.reset.sp.frame = .noFrame ∧ State.reset.sLine.clock = false ∧
    { clocked [] with sLine := { clock := true, data := true } }.sLine.clock = true := by decide

/-- R156: 0x32, ARM's code, clocked in most significant bit first. -/
theorem test_code_byte_bit_by_bit :
    (afterEdges (clockedBits [false, false, true, true, false, false, true, false]) (clocked [])).sp.frame =
      .command [0x32] := by decide

/-- R156: with S_CLK high at the selection nothing is taken until it has returned low and risen again. -/
theorem test_clock_high_at_select :
    let s := after (exec .sSelAsserted { State.reset with sLine := { clock := true, data := true } }) State.reset
    (afterEdges [{ clock := true, data := false }, { clock := false, data := false }] s).sp.bits = [] ∧
    (afterEdges [{ clock := false, data := false }, { clock := true, data := true }] s).sp.bits = [true] := by decide

/-- R156: the bits of a byte clocked in part are dropped with the frame, and S_DO is released. -/
theorem test_part_byte_dropped :
    let s := after (exec .sSelNegated (clocked [true, false, true])) State.reset
    s.sp.frame = .noFrame ∧ s.sp.bits = [] ∧ s.sDoPin = none := by decide

/-- A ready reply being sent. -/
def sendingReply : State :=
  { State.reset with
    sLine := { clock := true, data := false }
    sp := { State.reset.sp with frame := .reply, reply := some (reply .locked [7]), ready := true } }

theorem witness_reply_driven :
    sendingReply.sp.frame = .reply ∧ sendingReply.sp.ready = true ∧ sendingReply.sp.reply = some (reply .locked [7]) ∧
    (setReply (reply .ok) 1 State.reset).sp.ready = false := ⟨rfl, rfl, rfl, rfl⟩

/-- A reply in progress at one of its bytes, with some bits of it clocked. -/
def sendingAt (k : Option Nat) (bits : List Bool) (clock : Bool) : State :=
  { sendingReply with
    sLine := { clock := clock, data := false }, sp := { sendingReply.sp with bits := bits, byteAt := k } }

theorem witness_reply_clocked :
    ((sendingAt (some 4) [true] true).sp.byteAt = some 4 ∧ (reply .locked [7]).bytes[4]? = some 7 ∧
      (sendingAt (some 4) [true] true).sLine.clock = true ∧ (sendingAt (some 4) [true] true).sp.bits.length < 8) ∧
    ((sendingAt (some 3) (List.replicate 7 true) false).sLine.clock = false ∧
      (sendingAt (some 3) (List.replicate 7 true) false).sp.bits.length = 7 ∧
      3 + 1 < (reply .locked [7]).bytes.length ∧ 4 + 1 = (reply .locked [7]).bytes.length) ∧
    (sendingAt none [] false).sp.bits = [] ∧ (sendingAt none [true] false).sp.bits ≠ [] := by decide

/-- A pending byte at its last bit, with `n` sent before it and the reply not ready. -/
def pendingAt (n : Nat) : State :=
  { sendingAt none (List.replicate 7 false) false with
    sp := { (sendingAt none (List.replicate 7 false) false).sp with ready := false, pendingSent := n } }

theorem witness_pending_byte :
    (pendingAt 14).sp.frame = .reply ∧ (pendingAt 14).sp.bits.length = 7 ∧ (pendingAt 14).sp.byteAt = none ∧
    (pendingAt 14).sLine.clock = false ∧ (pendingAt 14).sp.pendingSent + 1 < 16 ∧
    (pendingAt 15).sp.frame = .reply ∧ 16 ≤ (pendingAt 15).sp.pendingSent + 1 := by decide

/-- R193: after 15 pending bytes a 16th may come, and after 16 the next byte is the marker. -/
theorem test_marker_is_at_latest_the_seventeenth_byte :
    (afterEdges (clockedBits [true, true]) (pendingAt 14)).sp.byteAt = none ∧
    (afterEdges (clockedBits [true, true]) (pendingAt 15)).sp.byteAt = some 0 := by decide

/-- The levels of S_DO through a number of rising edges, each after a falling one. -/
def heard : Nat → State → List (Option Bool)
  | 0, _ => []
  | n + 1, s =>
    let low := afterEdges [{ clock := false, data := false }] s
    low.sDoPin :: heard n (afterEdges [{ clock := true, data := false }] low)

/-- R156, R161: the marker 0x5A and the status LOCKED, 0x03, bit by bit. -/
theorem test_marker_and_status_on_s_do :
    heard 16 sendingReply = [false, true, false, true, true, false, true, false,
      false, false, false, false, false, false, true, true].map some := by decide

/-- R161: the marker, the status, the length and the payload. -/
theorem test_reply_bytes : (reply .ok [7]).bytes = [0x5A, 0, 0, 1, 7] := by decide
theorem witness_unknown_code :
    commandArgs 0xFF = none ∧ (received [] State.reset).sp.frame = .command [] ∧
    (received [] State.reset).sp.bits <+: byteBits 0xFF := by decide
theorem witness_command_taken :
    (Instr.arm 0 0).serviceBytes = some [0x32, 0, 0] ∧
    State.reset.sp.frame ≠ .command [0x32, 0] ∧ (received [0x32, 0] State.reset).sp.frame = .command [0x32, 0] ∧
    commandArgs 0x01 ≠ none := by decide
theorem witness_received (code : Byte) (args : List Byte) (s : State) :
    Received code args (received (code :: args).dropLast s) := ⟨rfl, List.nil_prefix⟩
theorem witness_port_commands :
    State.reset.sp.queue = { event := .restarted .power, time := 0 } :: [] ∧ (queued []).sp.queue = [] ∧
    (8191 : BitVec 16).toNat < 8192 ∧ 8192 ≤ (8192 : BitVec 16).toNat := by decide

/-- A ready reply, with an event in flight or a read in flight. -/
def replying (f : Option EventInFlight) (q : List Entry) (r : Option Nat) (mark : Option Nat) : State :=
  { oneHeld with
    sp := { oneHeld.sp with frame := .reply, reply := some (reply .ok), ready := true, queue := q, inFlight := f }
    ru := { oneHeld.ru with inFlight := r, mark := mark } }

theorem witness_reply_completion :
    ((replying none [] none none).sp.frame = .reply ∧ (replying none [] none none).sp.ready = true ∧
      (replying none [] none none).sp.reply = some (reply .ok)) ∧
    (∀ h, (replying none [] (some 5) none).tm.trace[(replying none [] (some 5) none).ru.cursor]? = some h → h.id ≠ 5) ∧
    ((∃ h, (replying none [] (some 0) (some 0)).tm.trace[(replying none [] (some 0) (some 0)).ru.cursor]? = some h ∧
      h.id = 0) ∧ (replying none [] (some 0) (some 0)).ru.mark = some 0) ∧
    (∃ f e, f = (⟨.recordsLost 1, some 3⟩ : EventInFlight) ∧ e = (⟨.recordsLost 4, 2⟩ : Entry) ∧ e.event ≠ f.copied ∧
      f.addedAt = some 3) := by
  refine ⟨by decide, ?_, by decide, _, _, rfl, rfl, by decide, rfl⟩
  intro h hh; simp [replying, oneHeld, appendRecord, State.reset, TraceMemory.reset, Readout.reset] at hh
  subst hh; simp
theorem witness_session_inactive : State.reset.sessionActive = false ∧ (inState .pretrig).sessionActive = true := by
  decide
theorem witness_link_control :
    ((2 : Byte) ≠ 0 ∧ (2 : Byte) ≠ 1 ∧ (2 : Byte) ≠ 0xFF) ∧ onOffByte false = 0 ∧ byte OpcodeLanes.four.code = 4 ∧
    { LinkTap.reset with decodeEnable := false }.decodeEnable = false := by decide
theorem witness_entry_spelled :
    OpcodeEntryArgs.spell readArgs readEntry ∧ (∀ e, ¬OpcodeEntryArgs.spell { readArgs with kind := 5 } e) := by
  refine ⟨by unfold OpcodeEntryArgs.spell; decide, ?_⟩
  rintro ⟨_, k, _, _, _, _, _⟩ ⟨_, h, hk, _⟩
  cases k <;> simp_all [Kind.code, byte]
theorem witness_opcode_table :
    oneEntry.opTable.get 0 = some readEntry ∧ State.reset.opTable.get 0 = none ∧ OpcodesUnique oneEntry.opTable ∧
    32 ≤ (32 : Byte).toNat ∧ ∀ i : Fin 32,
      ({ State.reset with opTable := Vector.replicate 32 (some readEntry) } : State).opTable.get i ≠ none :=
  ⟨by decide, by decide, oneEntry_unique, by decide, by decide⟩

/-- PUT SLOT for S0 of 3.2, with window and kind ERASE. -/
def slotArgs : SlotArgs :=
  { slot := 7, enabled := 1, targets := 1, kinds := 4, opcodeForm := 1, opcodeValue := 0, windowForm := 1,
    low := 0x010000, high := 0x01FFFF, condition := 0, v1 := 0, v2 := 0, mask := 0, anomalies := 0, scope := 1 }

/-- The slot those arguments spell. -/
def eraseSlot : Slot :=
  { enabled := true, targets := 1, kinds := 4, opcode := none, window := some (0x010000, 0x01FFFF),
    condition := .none, v1 := 0, v2 := 0, mask := 0, anomalies := 0, scope := .any }

theorem witness_slot_spelled :
    SlotArgs.spell slotArgs eraseSlot ∧ slotArgs.slot = byte (7 : Fin 8).val ∧ 8 ≤ (8 : Byte).toNat := by
  unfold SlotArgs.spell; decide
theorem witness_stage_spelled :
    StageArgs.spell { stage := 3, advance := 0x1FF, required := 1, restart := 0, timeout := 0xFFFFFF, action := 1 }
      { advance := 0x1FF, required := 1, restart := 0, timeout := 16777215, action := .advance } ∧
    (3 : Byte) = byte (3 : Fin 4).val ∧ 4 ≤ (4 : Byte).toNat := by
  unfold StageArgs.spell; decide
theorem witness_setup_spelled :
    SetupArgs.spell
      { mode := 1, repeating := 1, depth := 4095, post := 65535, keep := 256, policy := 2, holdLimit := 16777215,
        filterKinds := 63, filterTargets := 31, qualifier := 255, anomaliesAlways := 1 }
      { mode := .stream, repeating := true, depth := 4095, post := 65535, keep := 256, policy := .stop,
        holdLimit := 16777215, filterKinds := 63, filterTargets := 31, qualifier := 255, anomaliesAlways := true } := by
  unfold SetupArgs.spell; decide
theorem witness_configuration_refused :
    (∀ f, ¬SlotArgs.spell { slotArgs with scope := 2 } f) ∧
    (∀ g, ¬StageArgs.spell { stage := 0, advance := 0, required := 0, restart := 0, timeout := 0, action := 0 } g) ∧
    (∀ c, ¬SetupArgs.spell
      { mode := 2, repeating := 0, depth := 0, post := 0, keep := 0, policy := 0, holdLimit := 0, filterKinds := 0,
        filterTargets := 0, qualifier := 0, anomaliesAlways := 0 } c) := by
  refine ⟨?_, ?_, ?_⟩
  · rintro ⟨_, _, _, _, _, _, _, _, _, _, sc⟩ ⟨_, _, _, _, _, _, _, _, _, _, h, _⟩
    cases sc <;> simp [Scope.code, byte] at h
  · rintro ⟨_, r, _, _, _⟩ ⟨_, _, h, h1, _⟩
    have h : r = 0 := h
    have h1 : 1 ≤ r := h1
    omega
  · rintro ⟨m, _, _, _, _, _, _, _, _, _, _⟩ ⟨h, _⟩
    cases m <;> simp [Mode.code, byte] at h
theorem witness_put_sequence : 1 ≤ (1 : Byte).toNat ∧ (4 : Byte).toNat ≤ 4 ∧ 4 < (5 : Byte).toNat := by decide
theorem witness_arm :
    2 ≤ (2 : Byte).toNat ∧ Timebase.reset.role ≠ .follower ∧ oneHeld.tm.trace ≠ [] ∧ oneHeld.ru.mark = none ∧
    { Readout.reset with mark := some 0 }.mark ≠ none ∧
    (State.reset.ru.mark = none ∧ State.reset.tm.trace = []) ∧
    (watching 1 0 (stageOf 1 .restart) none).seq.state = .watching := by decide
theorem witness_readout :
    State.reset.tm.trace[State.reset.ru.cursor]? = none ∧ (∃ h, oneHeld.tm.trace[oneHeld.ru.cursor]? = some h) ∧
    (1 : BitVec 16) ≠ 0 ∧ min (1 : BitVec 16).toNat oneHeld.unread = 1 ∧
    min (65535 : BitVec 16).toNat State.reset.unread = 0 ∧ State.reset.unread = 0 ∧ oneHeld.unread ≠ 0 ∧
    (4096 : BitVec 16).toNat ≤ 4096 ∧ 4096 < (4097 : BitVec 16).toNat := by
  refine ⟨rfl, ⟨_, rfl⟩, by decide, by decide, by decide, by decide, by decide, by decide, by decide⟩
theorem witness_timebase :
    TimebaseArgs.allowed { prescale := 65536, role := 2, syncAtArm := 1, xtOut := 1, xtLen := 255, xtIn := 1 } ∧
    ¬TimebaseArgs.allowed { prescale := 65537, role := 2, syncAtArm := 1, xtOut := 1, xtLen := 255, xtIn := 1 } ∧
    { Timebase.reset with role := .leader, syncPulse := some 7 }.syncPulse = some 7 := by
  unfold TimebaseArgs.allowed; decide
theorem witness_tally :
    ((2 : Byte) ≠ 0 ∧ (2 : Byte) ≠ 1 ∧ (2 : Byte) ≠ 0xFF) ∧ onOffByte true = 1 ∧ 2 ≤ (2 : Byte).toNat ∧
    (3 : Byte) = byte (3 : Fin 4).val ∧ 5 ≤ (5 : Byte).toNat := by decide

end Sys2Proof.Tests
end

section
/-! The Match Unit at a data word: the comparison under the mask, which partial words are compared, and what a WORD
slot answers (R41, R48, R50). -/

namespace Sys2Proof.Machine
open Sys2Proof

/-- A remainder by `2 ^ k` of 0 says that the low `k` bits are all 0. -/
theorem toNat_mod_two_pow_eq_zero_iff {n : Nat} (x : BitVec n) (k : Nat) :
    x.toNat % 2 ^ k = 0 ↔ ∀ i, i < k → x.getLsbD i = false := by
  rw [Nat.eq_iff_testBit_eq]
  simp [Nat.testBit_mod_two_pow, BitVec.testBit_toNat]

/-- R41 bit by bit: only the bits the mask selects are compared. -/
theorem agrees_iff (mask w v : Word32) :
    agrees mask w v = true ↔ ∀ i, mask.getLsbD i = true → w.getLsbD i = v.getLsbD i := by
  rw [agrees, decide_eq_true_iff, BitVec.eq_of_getLsbD_eq_iff]
  constructor
  · intro h i hm
    have hi : i < 32 := BitVec.lt_of_getLsbD hm
    simpa [hm] using h i hi
  · intro h i _
    cases hm : mask.getLsbD i with
    | false => simp [hm]
    | true => simp [hm, h i hm]

/-- R41: a mask of 0 selects no bit, so every word agrees with every value. -/
theorem agrees_zero_mask (w v : Word32) : agrees 0 w v = true := by
  rw [agrees_iff]
  intro i hm
  simp at hm

/-- R41: under the full mask agreement is equality. -/
theorem agrees_full_mask (w v : Word32) : agrees 0xFFFFFFFF w v = true ↔ w = v := by
  have hfull : (0xFFFFFFFF : Word32) = BitVec.allOnes 32 := by decide
  rw [agrees, decide_eq_true_iff, hfull, BitVec.and_allOnes, BitVec.and_allOnes]

/-- The mask of the first byte selects the bits 24 to 31. -/
theorem getLsbD_firstByteMask (i : Nat) : (0xFF000000 : Word32).getLsbD i = decide (24 ≤ i ∧ i < 32) := by
  by_cases hi : i < 32
  · have hall : ∀ j : Fin 32, (0xFF000000 : Word32).getLsbD j.val = decide (24 ≤ j.val ∧ j.val < 32) := by decide
    exact hall ⟨i, hi⟩
  · rw [BitVec.getLsbD_of_ge _ i (by omega)]
    simp [hi]

/-- The top byte of a word laid out from four bytes is its first byte (R28). -/
theorem getLsbD_word_firstByte (b0 b1 b2 b3 : Byte) (j : Nat) :
    (b0 ++ b1 ++ b2 ++ b3).getLsbD (24 + j) = b0.getLsbD j := by
  have h3 : ¬ 24 + j < 8 := by omega
  have h2 : ¬ 24 + j - 8 < 8 := by omega
  have h1 : ¬ 24 + j - 8 - 8 < 8 := by omega
  have hj : 24 + j - 8 - 8 - 8 = j := by omega
  simp only [BitVec.getLsbD_append, h3, h2, h1, hj, if_false]

/-- R41: the mask 0xFF000000 compares the first byte of the word alone. -/
theorem agrees_firstByteMask (b0 b1 b2 b3 : Byte) (v : Word32) :
    agrees 0xFF000000 (b0 ++ b1 ++ b2 ++ b3) v = true ↔ b0 = v.extractLsb' 24 8 := by
  rw [agrees_iff, BitVec.eq_of_getLsbD_eq_iff]
  constructor
  · intro h j hj
    have hmask : (0xFF000000 : Word32).getLsbD (24 + j) = true := by
      rw [getLsbD_firstByteMask, decide_eq_true_iff]
      omega
    have hbit := h (24 + j) hmask
    rw [getLsbD_word_firstByte] at hbit
    simpa [hj] using hbit
  · intro h i hm
    rw [getLsbD_firstByteMask, decide_eq_true_iff] at hm
    obtain ⟨hlow, hhigh⟩ := hm
    obtain ⟨j, rfl⟩ := Nat.exists_eq_add_of_le hlow
    have hj : j < 8 := by omega
    rw [getLsbD_word_firstByte, h j hj]
    simp [hj]

/-- R50: a word is compared when the mask selects no bit of an absent byte; the absent bytes are the least
significant ones. -/
theorem Slot.compares_iff (f : Slot) (w : DataWord) :
    f.compares w = true ↔ ∀ i, i < 8 * (4 - w.bytes) → f.mask.getLsbD i = false := by
  rw [Slot.compares, decide_eq_true_iff, toNat_mod_two_pow_eq_zero_iff]

/-- R50: a word that is not compared is no evaluation point, whatever the slot's condition. -/
theorem wordAt_of_not_compares {ctx : FrameContext} {w : DataWord} {f : Slot} {p : SlotProgress}
    (h : f.compares w = false) : wordAt ctx w f p = (p, false) := by
  simp [wordAt, h]

/-- R48: a compared word is judged by a WORD slot's own rule. -/
theorem wordAt_word {ctx : FrameContext} {w : DataWord} {f : Slot} {p : SlotProgress}
    (hword : f.condition = .word) (h : f.compares w = true) : wordAt ctx w f p = wordStep ctx w f p := by
  simp [wordAt, h, hword]

/-- R48, R50: under scope ANY, where the frame conditions and the window are met, a WORD slot hits exactly on a
compared word that agrees with V1. -/
theorem wordAt_hit_of_any {ctx : FrameContext} {w : DataWord} {f : Slot} {p : SlotProgress}
    (hword : f.condition = .word) (hany : f.scope = .any) (hframe : f.frameMeets ctx = true)
    (hwindow : f.windowMeets w.address = true) :
    (wordAt ctx w f p).2 = (f.compares w && agrees f.mask w.value f.v1) := by
  cases hc : f.compares w with
  | false => rw [wordAt_of_not_compares hc, Bool.false_and]
  | true =>
    rw [wordAt_word hword hc]
    simp [wordStep, hany, hframe, hwindow]

/-- Settles O31: agreement bit by bit, then the two places where a slot uses it (R41, R50). -/
theorem wordAgreesUnderMask : Obligations.WordAgreesUnderMask := by
  refine ⟨agrees_iff, fun w v => ⟨agrees_zero_mask w v, agrees_full_mask w v⟩, agrees_firstByteMask, ?hit, ?absent⟩
  case hit => exact fun _ _ _ _ => wordAt_hit_of_any
  case absent => exact fun _ w f _ _ => ⟨f.compares_iff w, wordAt_of_not_compares⟩

end Sys2Proof.Machine
end

section
/-! The Trigger Sequencer at one hit: a stage entered while WATCHING, a stage completed, and each row of the table of
R66 (R64, R66, R67, R70). -/

namespace Sys2Proof.Machine
open Sys2Proof

/-- R67, R70: entering a stage from WATCHING changes the stage, the count and the timer alone. -/
theorem Sequencer.enter_of_watching {q : Sequencer} (h : q.state = .watching) (k : Fin 4) :
    q.enter k = { q with
      stage := k, occ := 0, timer := if (q.stages.get k).timeout = 0 then none else some 0 } := by
  rw [Sequencer.enter, freshTimer, ← h]

/-- R67, R70: a stage completed below the last one in use is left for the next. -/
theorem completeStage_of_below_last {src : TriggerSource} {s : State} {k : Fin 4} (hw : s.seq.state = .watching)
    (hk : k.val = s.seq.stage.val + 1) (hlt : k.val < s.seq.count) :
    completeStage src s = { s with seq := { s.seq with
      stage := k, occ := 0, timer := if (s.seq.stages.get k).timeout = 0 then none else some 0 } } := by
  have hbelow : s.seq.stage.val + 1 < s.seq.count ∧ s.seq.stage.val + 1 < 4 := by omega
  have hnext : (⟨s.seq.stage.val + 1, hbelow.2⟩ : Fin 4) = k := Fin.ext hk.symm
  rw [completeStage, dif_pos hbelow, hnext, Sequencer.enter_of_watching hw]

/-- R67: the last stage in use, completed, declares the trigger. -/
theorem completeStage_of_last {src : TriggerSource} {s : State} (hlast : s.seq.count ≤ s.seq.stage.val + 1) :
    completeStage src s = declareTrigger src s := by
  rw [completeStage, dif_neg fun hbelow => Nat.not_lt.mpr hlast hbelow.1]

/-- R64: IDLE and TRIGGERED take no hit. -/
theorem takeHit_of_not_watching {hit : Fin 9} {s : State} (h : s.seq.state ≠ .watching) : takeHit hit s = s := by
  rw [takeHit, if_neg h]

/-- R66, the first row: a hit in the restart set, whether or not it is in the advance set too. -/
theorem takeHit_of_restart {hit : Fin 9} {s : State} (hw : s.seq.state = .watching)
    (hr : s.seq.current.restart.getLsbD hit.val = true) :
    takeHit hit s = { s with seq := s.seq.enter 0 } := by
  rw [takeHit, if_pos hw, if_pos hr]

/-- R66, the second row: a hit in the advance set alone is counted, and at the required count completes its stage. -/
theorem takeHit_of_advance {hit : Fin 9} {s : State} (hw : s.seq.state = .watching)
    (hr : s.seq.current.restart.getLsbD hit.val = false) (ha : s.seq.current.advance.getLsbD hit.val = true) :
    takeHit hit s =
      if s.seq.occ + 1 = s.seq.current.required then
        completeStage (.sequence hit) { s with seq := { s.seq with occ := s.seq.occ + 1 } }
      else { s with seq := { s.seq with occ := s.seq.occ + 1 } } := by
  rw [takeHit, if_pos hw, if_neg (ne_true_of_eq_false hr), if_pos ha]
  rfl

/-- R64, R66, the last row: a hit in neither set does nothing, in any state. -/
theorem takeHit_of_neither {hit : Fin 9} {s : State} (hr : s.seq.current.restart.getLsbD hit.val = false)
    (ha : s.seq.current.advance.getLsbD hit.val = false) : takeHit hit s = s := by
  by_cases hw : s.seq.state = .watching
  · rw [takeHit, if_pos hw, if_neg (ne_true_of_eq_false hr), if_neg (ne_true_of_eq_false ha)]
  · exact takeHit_of_not_watching hw

/-- Settles O36: the rows of the table of R66, one by one; a counted hit then raises the count, advances or declares. -/
theorem hitActsByTheStageInForce : Obligations.HitActsByTheStageInForce := by
  intro hit s
  refine ⟨takeHit_of_not_watching, fun hw hr => ?restart, takeHit_of_neither,
    fun hw hr ha => ⟨fun hcount => ?raise, fun hcount k hk hlt => ?advance, fun hcount hlast => ?declare⟩⟩
  case restart => rw [takeHit_of_restart hw hr, Sequencer.enter_of_watching hw]
  case raise => rw [takeHit_of_advance hw hr ha, if_neg hcount]
  case advance =>
    rw [takeHit_of_advance hw hr ha, if_pos hcount]
    exact completeStage_of_below_last hw hk hlt
  case declare =>
    rw [takeHit_of_advance hw hr ha, if_pos hcount]
    exact completeStage_of_last hlast

end Sys2Proof.Machine
end

section
/-! What the rows of the link, the ticks and the port do to a state, said once for the step invariants: a pulse, a
frame's end, a hold violation, a SYNC edge, the start of a session, the completion of a read (R8, R12, R112, R118,
R148). -/

namespace Sys2Proof.Machine
open Sys2Proof

/-! ### Pulses -/

/-- A context's stored bytes stay within the store limit, which no pulse moves (R29). -/
def FrameContext.StoresWithin (c ctx : FrameContext) : Prop :=
  c.storeLimit = ctx.storeLimit ∧ (ctx.stored.length ≤ ctx.storeLimit → c.stored.length ≤ c.storeLimit)

theorem FrameContext.StoresWithin.of_eq {c ctx : FrameContext} (hl : c.storeLimit = ctx.storeLimit)
    (hs : c.stored = ctx.stored) : c.StoresWithin ctx :=
  ⟨hl, fun h => by rw [hs, hl]; exact h⟩

theorem FrameContext.StoresWithin.trans {a b c : FrameContext} (h : a.StoresWithin b) (k : b.StoresWithin c) :
    a.StoresWithin c :=
  ⟨h.1.trans k.1, fun hc => h.2 (k.2 hc)⟩

theorem decideTarget_storesWithin (ctx : FrameContext) (selects : BitVec 4) :
    (ctx.decideTarget selects).StoresWithin ctx := by
  unfold FrameContext.decideTarget
  split <;> exact .of_eq rfl rfl

theorem shifted_storesWithin (ctx : FrameContext) (l : LinkLanes) : (ctx.shifted l).StoresWithin ctx := by
  unfold FrameContext.shifted
  split <;> exact .of_eq rfl rfl

theorem withAddress_storesWithin (ctx : FrameContext) (l : LinkLanes) : (ctx.withAddress l).StoresWithin ctx := by
  unfold FrameContext.withAddress
  split <;> exact .of_eq rfl rfl

theorem withWaitDone_storesWithin (ctx : FrameContext) : ctx.withWaitDone.StoresWithin ctx := by
  unfold FrameContext.withWaitDone
  split <;> exact .of_eq rfl rfl

/-- R29: a completed byte is kept only below the store limit. -/
theorem withByte_storesWithin (ctx : FrameContext) (b : Byte) : (ctx.withByte b).StoresWithin ctx := by
  refine ⟨rfl, fun h => ?_⟩
  simp only [FrameContext.withByte]
  split
  · next hlt => simpa using hlt
  · exact h

/-- R8: a pulse puts a context in, and reaches at most one evaluation point. -/
theorem takePulse_cases (l : LinkLanes) (ctx : FrameContext) (s : State) :
    ∃ c : FrameContext, c.StoresWithin ctx ∧
      (takePulse l ctx s = setContext c s ∨ ∃ point, takePulse l ctx s = evaluate point (setContext c s)) := by
  have hd := decideTarget_storesWithin ctx s.hSel
  unfold takePulse
  dsimp only
  generalize ctx.decideTarget s.hSel = now at hd
  split
  · exact ⟨_, (shifted_storesWithin now l).trans hd, .inl rfl⟩
  · refine ⟨now.withOpcode l s.opTable, .trans (.of_eq rfl rfl) hd, ?_⟩
    unfold takeOpcodeDone
    dsimp only
    split
    · exact .inr ⟨_, rfl⟩
    · exact .inl rfl
  · exact ⟨_, (withAddress_storesWithin now l).trans hd, .inr ⟨_, rfl⟩⟩
  · exact ⟨_, (withWaitDone_storesWithin now).trans hd, .inl rfl⟩
  · have hb := (withByte_storesWithin now (now.byteValue l)).trans hd
    unfold takeByteDone
    dsimp only
    split
    · exact ⟨(now.withByte (now.byteValue l)).nextWord, .trans (.of_eq rfl rfl) hb, .inr ⟨_, rfl⟩⟩
    · exact ⟨_, hb, .inl rfl⟩
  · exact ⟨now.withExcess, .trans (.of_eq rfl rfl) hd, .inl rfl⟩
  · exact ⟨now.withOpaquePulse, .trans (.of_eq rfl rfl) hd, .inl rfl⟩

/-- What contexts and evaluation points keep, a pulse keeps. -/
theorem takePulse_keeps {P : State → Prop} {l : LinkLanes} {ctx : FrameContext} {s : State}
    (hset : ∀ c : FrameContext, c.StoresWithin ctx → P (setContext c s))
    (heval : ∀ point t, P t → P (evaluate point t)) : P (takePulse l ctx s) := by
  obtain ⟨c, hc, h | ⟨point, h⟩⟩ := takePulse_cases l ctx s
  · rw [h]
    exact hset c hc
  · rw [h]
    exact heval point _ (hset c hc)

/-! ### The frame's start and end -/

/-- What evaluation points keep, the Match Unit's frame end keeps (R54). -/
theorem matchFrameEnd_keeps {P : State → Prop} {ctx : FrameContext} {s : State} (hs : P s)
    (heval : ∀ point t, P t → P (evaluate point t)) : P (matchFrameEnd ctx s) := by
  unfold matchFrameEnd
  split
  · exact heval _ _ (heval _ _ hs)
  · exact heval _ _ hs

/-- R12, R37, R54: a frame's end runs the Match Unit, then the Capture Controller, then the tally, and the tap returns
to IDLE. -/
theorem endFrame_eq (ctx : FrameContext) (s : State) :
    ∃ m e, m = matchFrameEnd (ctx.closed s.tb.timeReset) s ∧
      e = captureFrameEnd (ctx.closed s.tb.timeReset) m.mu.hitSet { m with mu := { m.mu with eval := none } } ∧
      endFrame ctx s = { e with
        tally := e.tally.takeFrame (ctx.closed s.tb.timeReset), tap := { e.tap with boundary := .idle } } :=
  ⟨_, _, rfl, rfl, rfl⟩

/-- R118: a hold violation is noted in the episode and raised, or nothing happens. -/
theorem reportViolation_cases (n : Fin 4) (s : State) :
    reportViolation n s = s ∨ ∃ e : Episode, s.tm.episode = some e ∧ reportViolation n s =
      raiseEvent (.holdViolation n) { s with tm := { s.tm with episode := some { e with violated := true } } } := by
  unfold reportViolation
  split
  · next e he =>
    split
    · exact .inl rfl
    · exact .inr ⟨e, he, rfl⟩
  · exact .inl rfl

/-! ### Ticks, chain lines and sessions -/

/-- R148: a SYNC edge zeroes the time and raises SYNC_SEEN, and starts a session that waits for it. -/
theorem takeSyncEdge_cases (s : State) :
    ∃ t, t = raiseEvent (.syncSeen (s.tb.time.setWidth 32)) (zeroTime s) ∧
      (takeSyncEdge s = t ∨ (t.cc.state = .waitSync ∧ takeSyncEdge s = startSession t)) := by
  refine ⟨_, rfl, ?_⟩
  unfold takeSyncEdge
  dsimp only
  split
  · next h => exact .inr ⟨h, rfl⟩
  · exact .inl rfl

/-- R84, R85: a session waits for SYNC, or starts at once, perhaps with an emission of SYNC. -/
theorem beginSession_cases (onSync : Bool) (s : State) :
    beginSession onSync s = { s with cc := { s.cc with state := .waitSync } } ∨
      beginSession onSync s = startSession s ∨ beginSession onSync s = emitSync (startSession s) := by
  cases onSync with
  | true => exact .inl rfl
  | false =>
    right
    simp only [beginSession, Bool.false_eq_true, if_false]
    split
    · exact .inr rfl
    · exact .inl rfl

/-- R84: what ARM clears leaves the trace as it was, with KEEP, or empties it. -/
theorem prepareSession_tm (keep : Bool) (s : State) :
    (prepareSession keep s).tm = { (if keep then s else emptyTrace s).tm with holdSpent := false } := by
  cases keep <;> rfl

theorem prepareSession_ru (keep : Bool) (s : State) :
    (prepareSession keep s).ru = (if keep then s else emptyTrace s).ru := by
  cases keep <;> rfl

theorem prepareSession_seq (keep : Bool) (s : State) : (prepareSession keep s).seq = { s.seq with trigCount := 0 } := by
  cases keep <;> rfl

theorem prepareSession_setup (keep : Bool) (s : State) : (prepareSession keep s).cc.setup = s.cc.setup := by
  cases keep <;> rfl

theorem prepareSession_state (keep : Bool) (s : State) : (prepareSession keep s).cc.state = s.cc.state := by
  cases keep <;> rfl

@[simp] theorem beginSession_setup (onSync : Bool) (s : State) :
    (beginSession onSync s).cc.setup = s.cc.setup := by
  obtain h | h | h := beginSession_cases onSync s <;> simp [h]

/-! ### The service port -/

/-- R112, R128: a completed read is consumed at the cursor, or nothing is; either way no read is in flight. -/
theorem consumeRecord_cases (s : State) :
    consumeRecord s = { s with ru := { s.ru with inFlight := none } } ∨
      ∃ h t, s.atCursor = some h ∧ t = freeRead { s with ru := { s.ru with cursor := s.ru.cursor + 1 } } ∧
        consumeRecord s = { t with ru := { t.ru with inFlight := none } } := by
  unfold consumeRecord
  split
  · next h => left; rw [← h]
  · next id _ =>
    dsimp only
    split
    · next hc =>
      obtain ⟨h, hh, _⟩ := Option.map_eq_some_iff.mp hc
      exact .inr ⟨h, _, hh, rfl, rfl⟩
    · exact .inl rfl

/-- R112: what a read leaves as it was, its completion leaves. -/
theorem consumeRecord_sp (s : State) : (consumeRecord s).sp = s.sp := by
  obtain h | ⟨_, _, _, rfl, h⟩ := consumeRecord_cases s <;> exact (congrArg State.sp h).trans rfl

/-- The record at the cursor leaves room to move past it (R124). -/
theorem atCursor_lt {s : State} {h : Held} (hh : s.atCursor = some h) : s.ru.cursor < s.tm.trace.length := by
  obtain ⟨hlt, _⟩ := List.getElem?_eq_some_iff.mp hh
  exact hlt

/-- R156: a rising edge leaves the queue, the mask and the event in flight. -/
theorem rising_queue {d : Bool} {sp t : ServicePort} (h : sp.rising d = some t) :
    t.queue = sp.queue := by
  rcases rising_cases h with ⟨_, _, rfl⟩ | ⟨_, _, _, _, rfl⟩ | ⟨_, _, rfl⟩ | ⟨_, _, _, rfl⟩ | ⟨_, _, _, _, rfl⟩ |
    ⟨_, _, rfl⟩ <;> rfl

theorem falling_queue (sp : ServicePort) : sp.falling.queue = sp.queue := by
  obtain ⟨v, h⟩ := falling_eq sp
  rw [h]

end Sys2Proof.Machine
end

section
/-! The event queue's shape is kept by every step (R166, R168). -/

namespace Sys2Proof.Machine
open Sys2Proof

theorem reportViolation_queueKept (n : Fin 4) (s : State) : QueueKept s (reportViolation n s) := by
  obtain h | ⟨e, _, h⟩ := reportViolation_cases n s
  · rw [h]; exact .refl s
  · rw [h]; exact fun hs => raiseEvent_queueSound _ hs

theorem takePulse_queueKept (l : LinkLanes) (ctx : FrameContext) (s : State) :
    QueueKept s (takePulse l ctx s) :=
  fun hs => takePulse_keeps (P := fun t => QueueSound t.sp.queue) (fun _ _ => hs)
    fun point t => evaluate_queueKept point t

theorem endFrame_queueKept (ctx : FrameContext) (s : State) : QueueKept s (endFrame ctx s) := by
  intro hs
  obtain ⟨m, e, rfl, rfl, h⟩ := endFrame_eq ctx s
  rw [h]
  exact captureFrameEnd_queueKept _ _ _ <|
    matchFrameEnd_keeps (P := fun t => QueueSound t.sp.queue) hs fun point t => evaluate_queueKept point t

theorem takeSyncEdge_queueKept (s : State) : QueueKept s (takeSyncEdge s) := by
  obtain ⟨t, rfl, h | ⟨_, h⟩⟩ := takeSyncEdge_cases s <;>
    (rw [h]; exact fun hs => raiseEvent_queueSound _ hs)

theorem expireHold_queueKept (e : Episode) (s : State) : QueueKept s (expireHold e s) :=
  fun hs => releaseHold_queueKept _ _ _ (raiseEvent_queueSound _ hs)

theorem completeReply_queueKept (s : State) : QueueKept s (completeReply s) := by
  intro hs
  exact removeEvent_queueSound (sp := (consumeRecord s).sp) (by rw [consumeRecord_sp]; exact hs)

theorem empty_queueSound : QueueSound [] := by simp [QueueSound]

/-- A reset empties the queue, leaving one holds RESTARTED alone; a happening raises events, and the port's rows but
the completion of a reply leave the queue as it was. -/
theorem queueSound_moves : Moves fun s => QueueSound s.sp.queue := by
  constructor
  case powerOn | powerLoss | pinFalls => intros; exact empty_queueSound
  case porLeaves | pinLeaves | softReset => intros; exact single_queueSound _
  case frameBegins => exact fun s n hs _ _ => reportViolation_queueKept n _ hs
  case frameEnds => exact fun s n ctx hs _ _ => happening_queueKept (endFrame_queueKept ctx _) hs
  case pulse => exact fun s k ctx hs _ => happening_queueKept (takePulse_queueKept k.lanes ctx _) hs
  case stageExpires => exact fun s hs _ => happening_queueKept (expireStage_queueKept s) hs
  case holdExpires => exact fun s e hs _ => happening_queueKept (expireHold_queueKept e s) hs
  case syncEdge => exact fun s hs _ _ => happening_queueKept (takeSyncEdge_queueKept s) hs
  case xtEdge => exact fun s hs _ => happening_queueKept (takeHit_queueKept 8 s) hs
  case clockRises =>
    intro s k sp hs _ _ hr
    exact (rising_queue hr).symm ▸ hs
  case clockFalls =>
    intro s k hs _ _
    exact (falling_queue s.sp).symm ▸ hs
  case replyCompletes => exact fun s hs _ _ => happening_queueKept (completeReply_queueKept s) hs
  case linkControl =>
    intro s d i l hs _ _
    exact (applyLinkControl_sp d i l s).symm ▸ hs
  case forces => exact fun s hs _ => happening_queueKept (declareTrigger_queueKept .forced s) hs
  case arms =>
    intro s o k hs _ _
    refine settle_queueKept _ _ ?_
    simpa using hs
  case stops => exact fun s hs _ => happening_queueKept (completeSession_queueKept .stopped s) hs
  case clears => exact fun s hs _ => happening_queueKept (emptyTrace_queueKept s) hs
  case skips =>
    intro s k hs _
    refine settle_queueKept _ _ ?_
    unfold skipRecords
    split <;> exact hs
  case rewinds => exact fun s m hs _ => settle_queueKept _ _ hs
  case releases => exact fun s m hs _ => settle_queueKept _ _ hs
  case syncs =>
    intro s hs _
    exact (emitSync_sp s).symm ▸ hs
  all_goals intros; assumption

/-- Settles O5: an invariant of the list of moves. -/
theorem stepKeepsQueueSound : Obligations.StepKeepsQueueSound :=
  fun _ _ hs h => queueSound_moves.step (fun _ _ hs => hs) hs h

end Sys2Proof.Machine
end

section
/-! The trace's accounting is kept by every step, and no record is held twice (R102, R124, Note after R112). -/

namespace Sys2Proof.Machine
open Sys2Proof

/-! ### Records by their names -/

/-- The same trace and the same names keep the records distinct, whether or not the read in flight goes on. -/
theorem recordsDistinct_of_eq {s t : State} (htrace : t.tm.trace = s.tm.trace) (hnext : t.tm.nextId = s.tm.nextId)
    (hflight : t.ru.inFlight = none ∨ t.ru.inFlight = s.ru.inFlight) (hs : RecordsDistinct s) :
    RecordsDistinct t := by
  obtain ⟨hnodup, hnames, hread⟩ := hs
  refine ⟨htrace ▸ hnodup, htrace ▸ hnext ▸ hnames, fun id hid => ?_⟩
  rw [hnext]
  obtain h | h := hflight
  · rw [h] at hid; cases hid
  · exact hread id (h ▸ hid)

theorem recordsDistinct_empty {t : State} (htrace : t.tm.trace = []) (hflight : t.ru.inFlight = none) :
    RecordsDistinct t := by
  simp [RecordsDistinct, htrace, hflight]

theorem reportViolation_recordsKept (n : Fin 4) (s : State) : RecordsKept s (reportViolation n s) := by
  obtain h | ⟨e, _, h⟩ := reportViolation_cases n s
  · rw [h]; exact .refl s
  · rw [h]; exact fun hs => raiseEvent_recordsKept _ _ (recordsDistinct_of_eq rfl rfl (.inr rfl) hs)

theorem takePulse_recordsKept (l : LinkLanes) (ctx : FrameContext) (s : State) :
    RecordsKept s (takePulse l ctx s) :=
  fun hs => takePulse_keeps (fun _ _ => hs) fun point t => evaluate_recordsKept point t

theorem endFrame_recordsKept (ctx : FrameContext) (s : State) : RecordsKept s (endFrame ctx s) := by
  intro hs
  obtain ⟨m, e, rfl, rfl, h⟩ := endFrame_eq ctx s
  rw [h]
  exact captureFrameEnd_recordsKept _ _ _ <| matchFrameEnd_keeps hs fun point t => evaluate_recordsKept point t

theorem takeSyncEdge_recordsKept (s : State) : RecordsKept s (takeSyncEdge s) := by
  obtain ⟨t, rfl, h | ⟨_, h⟩⟩ := takeSyncEdge_cases s <;>
    (rw [h]; exact fun hs => raiseEvent_recordsKept _ _ hs)

theorem expireHold_recordsKept (e : Episode) (s : State) : RecordsKept s (expireHold e s) :=
  fun hs => releaseHold_recordsKept _ _ _ (raiseEvent_recordsKept _ _ hs)

theorem completeReply_recordsKept (s : State) : RecordsKept s (completeReply s) := by
  obtain h | ⟨_, t, _, rfl, h⟩ := consumeRecord_cases s
  · unfold completeReply
    rw [h]
    exact recordsDistinct_of_eq rfl rfl (.inl rfl)
  · unfold completeReply
    rw [h]
    have hfree := freeRead_recordsKept { s with ru := { s.ru with cursor := s.ru.cursor + 1 } }
    exact fun hs => recordsDistinct_of_eq (s := freeRead _) rfl rfl (.inl rfl) (hfree hs)

theorem prepareSession_recordsKept (keep : Bool) (s : State) : RecordsKept s (prepareSession keep s) := by
  cases keep with
  | true => exact recordsDistinct_of_eq rfl rfl (.inr rfl)
  | false => exact fun hs => recordsDistinct_of_eq rfl rfl (.inr rfl) (emptyTrace_recordsKept s hs)

/-- A reset empties the trace; a read names a record held, so one that has been appended. -/
theorem recordsDistinct_moves : Moves RecordsDistinct := by
  constructor
  case powerOn | powerLoss | pinFalls | softReset => intros; exact recordsDistinct_empty rfl rfl
  case frameBegins => exact fun s n hs _ _ => reportViolation_recordsKept n _ hs
  case frameEnds => exact fun s n ctx hs _ _ => happening_recordsKept (endFrame_recordsKept ctx _) hs
  case pulse => exact fun s k ctx hs _ => happening_recordsKept (takePulse_recordsKept k.lanes ctx _) hs
  case stageExpires => exact fun s hs _ => happening_recordsKept (expireStage_recordsKept s) hs
  case holdExpires => exact fun s e hs _ => happening_recordsKept (expireHold_recordsKept e s) hs
  case syncEdge => exact fun s hs _ _ => happening_recordsKept (takeSyncEdge_recordsKept s) hs
  case xtEdge => exact fun s hs _ => happening_recordsKept (takeHit_recordsKept 8 s) hs
  case portAbandons => exact fun s hs _ _ => recordsDistinct_of_eq (s := s) rfl rfl (.inl rfl) hs
  case replyCompletes => exact fun s hs _ _ => happening_recordsKept (completeReply_recordsKept s) hs
  case linkControl => exact fun s d i l hs _ _ => recordsDistinct_of_eq (by simp) (by simp) (.inr (by simp)) hs
  case forces => exact fun s hs _ => happening_recordsKept (declareTrigger_recordsKept .forced s) hs
  case arms =>
    intro s o k hs _ _
    refine settle_recordsKept _ _ ?_
    exact recordsDistinct_of_eq (by simp) (by simp) (.inr (by simp)) (prepareSession_recordsKept k s hs)
  case stops => exact fun s hs _ => happening_recordsKept (completeSession_recordsKept .stopped s) hs
  case clears => exact fun s hs _ => happening_recordsKept (emptyTrace_recordsKept s) hs
  case copiesRecord =>
    intro s h ⟨hnodup, hnames, _⟩ hh
    refine ⟨hnodup, hnames, ?_⟩
    rintro _ ⟨⟩
    exact hnames h (List.mem_of_getElem? hh)
  case skips =>
    intro s k hs _
    refine settle_recordsKept _ _ ?_
    unfold skipRecords
    split
    · exact hs
    · exact freeRead_recordsKept { s with ru := { s.ru with cursor := s.ru.cursor + k } } hs
  case rewinds => exact fun s m hs _ => settle_recordsKept _ _ hs
  case releases =>
    intro s m hs _
    exact settle_recordsKept _ _ (freeRead_recordsKept { s with ru := { s.ru with mark := none } } hs)
  case syncs => exact fun s hs _ => recordsDistinct_of_eq (by simp) (by simp) (.inr (by simp)) hs
  all_goals intros; assumption

/-! ### Units, cursor and mark -/

/-- A frame context within the bounds that bound its record (R29, R78). -/
def FrameContext.StoreBounded (ctx : FrameContext) : Prop :=
  ctx.storeLimit ≤ 256 ∧ ctx.stored.length ≤ ctx.storeLimit

theorem TraceSound.context {s : State} (h : TraceSound s) {ctx : FrameContext}
    (hb : s.tap.boundary = .inFrame ctx) : ctx.StoreBounded := by
  obtain ⟨_, _, _, _, _, _, hctx⟩ := h
  exact hctx ctx hb

theorem FrameContext.StoresWithin.bounded {c ctx : FrameContext} (h : c.StoresWithin ctx)
    (hb : ctx.StoreBounded) : c.StoreBounded :=
  ⟨h.1 ▸ hb.1, h.2 hb.2⟩

theorem FrameContext.StoreBounded.length_le {ctx : FrameContext} (h : ctx.StoreBounded) :
    ctx.stored.length ≤ 256 := h.2.trans h.1

/-- The same trace, cursor and mark keep the accounting where the frame in progress, if there is one, is within
bounds. -/
theorem traceSound_of_context {s t : State} (htrace : t.tm.trace = s.tm.trace) (hfree : t.tm.free = s.tm.free)
    (hcursor : t.ru.cursor = s.ru.cursor) (hmark : t.ru.mark = s.ru.mark)
    (hkeep : t.cc.setup.keep ≤ 256 ∨ t.cc.setup.keep = s.cc.setup.keep)
    (hctx : ∀ ctx, t.tap.boundary = .inFrame ctx → ctx.StoreBounded) (hs : TraceSound s) : TraceSound t := by
  obtain ⟨hunits, hrecords, hle, hzero, hheld, hk, _⟩ := hs
  refine ⟨?_, ?_, ?_, ?_, ?_, ?_, hctx⟩
  · rw [htrace, hfree]; exact hunits
  · rw [htrace]; exact hrecords
  · rw [htrace, hcursor]; exact hle
  · rw [hcursor, hmark]; exact hzero
  · rw [htrace, hmark]; exact hheld
  · obtain h | h := hkeep
    · exact h
    · rw [h]; exact hk

theorem traceSound_of_eq {s t : State} (htrace : t.tm.trace = s.tm.trace) (hfree : t.tm.free = s.tm.free)
    (hcursor : t.ru.cursor = s.ru.cursor) (hmark : t.ru.mark = s.ru.mark)
    (hkeep : t.cc.setup.keep = s.cc.setup.keep) (hb : t.tap.boundary = s.tap.boundary) (hs : TraceSound s) :
    TraceSound t :=
  traceKept_of_eq htrace hfree hcursor hmark hkeep hb hs

/-- An empty trace with all units free is in order. -/
theorem traceSound_empty {t : State} (htrace : t.tm.trace = []) (hfree : t.tm.free = Config.traceUnits)
    (hcursor : t.ru.cursor = 0) (hmark : t.ru.mark = none) (hkeep : t.cc.setup.keep ≤ 256)
    (hctx : ∀ ctx, t.tap.boundary = .inFrame ctx → ctx.StoreBounded) : TraceSound t := by
  refine ⟨?_, ?_, ?_, ?_, ?_, hkeep, hctx⟩
  · rw [htrace, hfree]; rfl
  · rw [htrace]; simp
  · rw [hcursor]; exact Nat.zero_le _
  · exact fun _ => hcursor
  · rw [hmark]; rintro _ ⟨⟩

theorem reportViolation_traceKept (n : Fin 4) (s : State) : TraceKept s (reportViolation n s) := by
  obtain h | ⟨e, _, h⟩ := reportViolation_cases n s
  · rw [h]; exact .refl s
  · rw [h]; exact fun hs => raiseEvent_traceKept _ _ (traceSound_of_eq rfl rfl rfl rfl rfl rfl hs)

/-- R29: a frame begins with nothing stored, and a store limit of the data keep at the most. -/
theorem openContext_storeBounded (n : Fin 4) {s : State} (h : s.cc.setup.keep ≤ 256) :
    (openContext n s).StoreBounded := by
  refine ⟨?_, Nat.zero_le _⟩
  simp only [openContext]
  split <;> omega

theorem takeFrameStart_setup (c : Capture) : c.takeFrameStart.setup = c.setup := by
  unfold Capture.takeFrameStart
  split <;> rfl

theorem beginFrame_traceKept (n : Fin 4) (s : State) : TraceKept s (beginFrame n s) := by
  refine .trans ?_ (reportViolation_traceKept n _)
  intro hs
  refine traceSound_of_context (s := s) rfl rfl rfl rfl (.inr (by rw [takeFrameStart_setup])) ?_ hs
  rintro ctx ⟨⟩
  obtain ⟨_, _, _, _, _, hk, _⟩ := hs
  exact openContext_storeBounded n hk

theorem setContext_traceKept {c : FrameContext} (hc : c.StoreBounded) (s : State) : TraceKept s (setContext c s) := by
  refine traceSound_of_context rfl rfl rfl rfl (.inr rfl) ?_
  rintro ctx ⟨⟩
  exact hc

theorem takePulse_traceKept (l : LinkLanes) {ctx : FrameContext} (hc : ctx.StoreBounded) (s : State) :
    TraceKept s (takePulse l ctx s) :=
  fun hs => takePulse_keeps (fun _ hw => setContext_traceKept (hw.bounded hc) s hs)
    fun point t => evaluate_traceKept point t

theorem endFrame_traceKept {ctx : FrameContext} (hc : ctx.StoreBounded) (s : State) :
    TraceKept s (endFrame ctx s) := by
  intro hs
  obtain ⟨m, e, hm, he, h⟩ := endFrame_eq ctx s
  have hmatched : TraceSound m := hm ▸ matchFrameEnd_keeps hs fun point t => evaluate_traceKept point t
  have hclosed : TraceSound { m with mu := { m.mu with eval := none } } :=
    traceSound_of_eq (s := m) rfl rfl rfl rfl rfl rfl hmatched
  have hended : TraceSound e := by
    rw [he]
    exact captureFrameEnd_traceKept (ctx.closed s.tb.timeReset) _ _ hc.length_le hclosed
  rw [h]
  exact traceSound_of_context (s := e) rfl rfl rfl rfl (.inr rfl) (fun _ hb => by cases hb) hended

theorem takeSyncEdge_traceKept (s : State) : TraceKept s (takeSyncEdge s) := by
  obtain ⟨t, rfl, h | ⟨_, h⟩⟩ := takeSyncEdge_cases s
  all_goals
    intro hs
    have hz : TraceSound (zeroTime s) := traceSound_of_eq rfl rfl rfl rfl rfl rfl hs
    rw [h]
    exact traceSound_of_eq rfl rfl rfl rfl rfl rfl (raiseEvent_traceKept (.syncSeen (s.tb.time.setWidth 32)) _ hz)

theorem releaseHold_traceKept (c : HoldOffCause) (e : Episode) (s : State) : TraceKept s (releaseHold c e s) :=
  fun hs => raiseEvent_traceKept _ _ (traceSound_of_eq rfl rfl rfl rfl rfl rfl hs)

theorem expireHold_traceKept (e : Episode) (s : State) : TraceKept s (expireHold e s) :=
  fun hs => releaseHold_traceKept _ _ _
    (traceSound_of_eq rfl rfl rfl rfl rfl rfl (raiseEvent_traceKept (.holdExpired s.tm.free) s hs))

theorem completeReply_traceKept (s : State) : TraceKept s (completeReply s) := by
  obtain h | ⟨_, t, hh, rfl, h⟩ := consumeRecord_cases s
  · unfold completeReply
    rw [h]
    exact traceSound_of_eq rfl rfl rfl rfl rfl rfl
  · unfold completeReply
    rw [h]
    exact fun hs => traceSound_of_eq rfl rfl rfl rfl rfl rfl (advance_traceKept 1 s (atCursor_lt hh) hs)

theorem prepareSession_traceKept (keep : Bool) (s : State) : TraceKept s (prepareSession keep s) := by
  cases keep with
  | true => exact traceSound_of_eq rfl rfl rfl rfl rfl rfl
  | false => exact fun hs => traceSound_of_eq rfl rfl rfl rfl rfl rfl (emptyTrace_traceKept s hs)

theorem beginSession_traceKept (onSync : Bool) (s : State) : TraceKept s (beginSession onSync s) :=
  traceKept_of_eq (by simp) (by simp) (by simp) (by simp) (by simp) (by simp)

theorem skipRecords_traceKept {k : Nat} {s : State} (hk : k ≤ s.unread) : TraceKept s (skipRecords k s) := by
  unfold skipRecords
  split
  · exact .refl s
  · next h0 =>
    have hle : s.ru.cursor + k ≤ s.tm.trace.length := by
      unfold State.unread at hk
      omega
    exact advance_traceKept k s hle

/-- R134: RELEASE frees every record before the cursor, which then designates the oldest one left. -/
theorem releaseMark_traceKept (s : State) : TraceKept s (releaseMark s) := by
  rintro ⟨hunits, hrecords, hle, _, _, hk, hctx⟩
  have hsplit := unitsOf_take_drop s.ru.cursor s.tm.trace
  refine ⟨?_, ?_, ?_, ?_, ?_, hk, hctx⟩
  · simp only [releaseMark, freeRead, removeOldest_tm, Option.getD_none]
    omega
  · exact fun h hh => hrecords h (List.mem_of_mem_drop hh)
  · simp [releaseMark, freeRead]
  · simp [releaseMark, freeRead]
  · simp [releaseMark, freeRead]

/-- R132: the mark is placed at the cursor, which designates the oldest record while no mark is held. -/
theorem mark_traceKept {s : State} (hm : s.ru.mark = none) (hu : s.unread ≠ 0) :
    TraceKept s { s with ru := { s.ru with mark := some s.ru.cursor } } := by
  rintro ⟨hunits, hrecords, hle, hzero, _, hk, hctx⟩
  refine ⟨hunits, hrecords, hle, nofun, ?_, hk, hctx⟩
  rintro m ⟨⟩
  exact ⟨hzero hm, fun hnil => hu (by rw [State.unread, hnil]; exact Nat.zero_sub _)⟩

/-- R133: the mark designates the oldest record, so the cursor returns to it. -/
theorem rewindTo_traceKept {m : Nat} {s : State} (hm : s.ru.mark = some m) : TraceKept s (rewindTo m s) := by
  rintro ⟨hunits, hrecords, hle, _, hheld, hk, hctx⟩
  obtain ⟨rfl, _⟩ := hheld m hm
  exact ⟨hunits, hrecords, Nat.zero_le _, fun _ => rfl, nofun, hk, hctx⟩

/-- R5, R7: LINK CONTROL opens no frame. -/
theorem applyLinkControl_boundary {d i : Option Bool} {l : Option OpcodeLanes} {s : State} {ctx : FrameContext}
    (h : (applyLinkControl d i l s).tap.boundary = .inFrame ctx) : s.tap.boundary = .inFrame ctx := by
  unfold applyLinkControl setDecodeEnable abandonFrame at h
  dsimp only at h
  split at h
  · exact h
  · split at h
    · split at h <;> cases h
    · cases h

theorem abandonFrame_setup (s : State) : (abandonFrame s).cc.setup = s.cc.setup := by
  unfold abandonFrame
  split <;> rfl

theorem applyLinkControl_setup (d i : Option Bool) (l : Option OpcodeLanes) (s : State) :
    (applyLinkControl d i l s).cc.setup = s.cc.setup := by
  unfold applyLinkControl setDecodeEnable
  dsimp only
  split
  · rfl
  · split
    · rfl
    · exact abandonFrame_setup s

/-- A tick changes the duration alone in a frame's context (R15). -/
theorem tick_boundary {tap : LinkTap} {ctx : FrameContext} (h : tap.tick.boundary = .inFrame ctx) :
    ∃ c, tap.boundary = .inFrame c ∧ ctx = { c with duration := satAdd Config.max24 c.duration 1 } := by
  unfold LinkTap.tick at h
  split at h
  · next c hc =>
    cases h
    exact ⟨c, hc, rfl⟩
  · next hno => exact absurd h (hno ctx)

theorem leaveReset_traceKept (c : ResetCause) (s : State) : TraceKept s (leaveReset c s) := by
  refine traceSound_of_context rfl rfl rfl rfl (.inr rfl) fun ctx h => ?_
  simp only [leaveReset_tap] at h
  split at h <;> cases h

/-- Resets and SOFT RESET empty the trace; the readout moves free what they leave behind; offers are judged before they
append (R102 to R112). -/
theorem traceSound_moves : Moves TraceSound := by
  constructor
  case powerOn | powerLoss | pinFalls =>
    intros
    refine traceSound_empty rfl rfl rfl rfl ?_ ?_
    · simp [Capture.reset, Capture.fresh, Setup.reset]
    · simp [LinkTap.reset]
  case porLeaves => exact fun s hs _ _ _ => leaveReset_traceKept _ _ hs
  case pinLeaves => exact fun s hs _ _ _ => leaveReset_traceKept _ _ hs
  case frameBegins => exact fun s n hs _ _ => beginFrame_traceKept n _ hs
  case collides =>
    intro s n ctx hs _ hb
    have hc : (setCollision ctx).StoreBounded := hs.context (ctx := ctx) hb
    exact setContext_traceKept hc _ hs
  case frameEnds => exact fun s n ctx hs _ hb => happening_traceKept (endFrame_traceKept (hs.context hb) _) hs
  case skipEnds => exact fun s n hs _ _ => traceSound_of_context (s := s) rfl rfl rfl rfl (.inr rfl) (by simp) hs
  case pulse => exact fun s k ctx hs hb => happening_traceKept (takePulse_traceKept k.lanes (hs.context hb) _) hs
  case tick =>
    intro s hs _
    refine traceSound_of_context (s := s) rfl rfl rfl rfl (.inr rfl) (fun ctx h => ?_) hs
    obtain ⟨c, hb, rfl⟩ := tick_boundary h
    exact hs.context (ctx := c) hb
  case stageExpires => exact fun s hs _ => happening_traceKept (expireStage_traceKept s) hs
  case holdExpires => exact fun s e hs _ => happening_traceKept (expireHold_traceKept e s) hs
  case syncEdge => exact fun s hs _ _ => happening_traceKept (takeSyncEdge_traceKept s) hs
  case xtEdge => exact fun s hs _ => happening_traceKept (takeHit_traceKept 8 s) hs
  case replyCompletes => exact fun s hs _ _ => happening_traceKept (completeReply_traceKept s) hs
  case softReset =>
    intro s hs
    obtain ⟨_, _, _, _, _, hk, hctx⟩ := hs
    exact traceSound_empty rfl rfl rfl rfl hk hctx
  case linkControl =>
    intro s d i l hs _ _
    refine traceSound_of_context (by simp) (by simp) (by simp) (by simp) (.inr ?_) (fun ctx h => ?_) hs
    · rw [applyLinkControl_setup]
    · exact hs.context (applyLinkControl_boundary h)
  case setup =>
    intro s a c hs _ hc
    obtain ⟨_, _, _, _, _, _, hk, _⟩ := (setup?_some a c).mp hc
    exact traceSound_of_context (s := s) rfl rfl rfl rfl (.inl hk) (fun ctx hb => hs.context hb) hs
  case forces => exact fun s hs _ => happening_traceKept (declareTrigger_traceKept .forced s) hs
  case arms =>
    exact fun s o k hs _ _ => settle_traceKept _ _ (beginSession_traceKept o _ (prepareSession_traceKept k s hs))
  case stops => exact fun s hs _ => happening_traceKept (completeSession_traceKept .stopped s) hs
  case clears => exact fun s hs _ => happening_traceKept (emptyTrace_traceKept s) hs
  case skips => exact fun s k hs hk => happening_traceKept (skipRecords_traceKept hk) hs
  case marks => exact fun s hs hm hu => mark_traceKept hm hu hs
  case rewinds => exact fun s m hs hm => happening_traceKept (rewindTo_traceKept hm) hs
  case releases => exact fun s m hs _ => happening_traceKept (releaseMark_traceKept s) hs
  case syncs =>
    exact fun s hs _ => traceSound_of_eq (by simp) (by simp) (by simp) (by simp) (by simp) (by simp) hs
  all_goals intros; assumption

/-- Settles O4: both are invariants of the list of moves. -/
theorem stepKeepsTraceSound : Obligations.StepKeepsTraceSound :=
  ⟨fun _ _ hs h => traceSound_moves.step (fun _ _ hs => hs) hs h,
    fun _ _ hs h => recordsDistinct_moves.step (fun _ _ hs => hs) hs h⟩

end Sys2Proof.Machine
end

section
/-! The sequencer's runtime state keeps its ranges at every step, and leaves IDLE in a storing state alone (R57, R61 to
R63). -/

namespace Sys2Proof.Machine
open Sys2Proof

theorem storing_isActive {c : CaptureState} (h : c.storing = true) : c.isActive = true := by
  cases c with
  | pretrig | posttrig | streaming => rfl
  | idle | waitSync | complete => cases h

/-- R63: with no session active the sequencer is in IDLE. -/
theorem SequencerSound.idle_of_inactive {s : State} (h : SequencerSound s) (ha : s.sessionActive = false) :
    s.seq.state = .idle := by
  obtain ⟨_, _, _, _, _, _, hstoring⟩ := h
  by_contra hne
  rw [State.sessionActive, storing_isActive (hstoring hne)] at ha
  cases ha

/-- R61: in IDLE the runtime state already stands as `toIdle` puts it. -/
theorem SequencerSound.toIdle_eq {s : State} (h : SequencerSound s) (hi : s.seq.state = .idle) :
    s.seq.toIdle = s.seq := by
  obtain ⟨_, _, _, _, hidle, _, _⟩ := h
  obtain ⟨hstage, hocc, htimer⟩ := hidle hi
  rw [Sequencer.toIdle, ← hi, ← hstage, ← hocc, ← htimer]

/-- Sound configuration put into an IDLE sequencer leaves it sound, whatever its trigger count. -/
theorem SequencerSound.reconfigured {s t : State} (h : SequencerSound s) (ha : s.sessionActive = false)
    (hq : SequencerConfigured t.seq)
    (hkept : t.seq = { s.seq with
      count := t.seq.count, stages := t.seq.stages, trigCount := t.seq.trigCount }) : SequencerSound t := by
  refine sequencerSound_idle hq ?_
  have hi := h.toIdle_eq (h.idle_of_inactive ha)
  rw [hkept]
  conv_lhs => rw [← hi]
  rfl

theorem reset_sequencerConfigured : SequencerConfigured Sequencer.reset := by
  refine ⟨?_, ?_, ?_⟩ <;> decide

theorem reportViolation_session (n : Fin 4) (s : State) :
    (reportViolation n s).seq = s.seq ∧ (reportViolation n s).cc = s.cc := by
  obtain h | ⟨e, _, h⟩ := reportViolation_cases n s <;> simp [h]

theorem takeFrameStart_state (c : Capture) : c.takeFrameStart.state = c.state := by
  unfold Capture.takeFrameStart
  split <;> rfl

/-- R10, R88: of the sequencer and the Capture Controller a frame start changes the current frame and its number. -/
theorem beginFrame_session (n : Fin 4) (s : State) :
    (beginFrame n s).seq = s.seq ∧ (beginFrame n s).cc = s.cc.takeFrameStart :=
  reportViolation_session n _

theorem beginFrame_sequencerSound (n : Fin 4) {s : State} (hs : SequencerSound s) :
    SequencerSound (beginFrame n s) := by
  obtain ⟨hseq, hcc⟩ := beginFrame_session n s
  exact sequencerSound_of_eq hseq (by rw [hcc, takeFrameStart_state]) hs

theorem takePulse_sequencerSound (l : LinkLanes) (ctx : FrameContext) {s : State} (hs : SequencerSound s) :
    SequencerSound (takePulse l ctx s) :=
  takePulse_keeps (fun _ _ => hs) fun point _ => evaluate_sequencerSound point

theorem endFrame_sequencerSound (ctx : FrameContext) {s : State} (hs : SequencerSound s) :
    SequencerSound (endFrame ctx s) := by
  obtain ⟨m, e, rfl, rfl, h⟩ := endFrame_eq ctx s
  rw [h]
  have hm := matchFrameEnd_keeps (ctx := ctx.closed s.tb.timeReset) hs fun point _ => evaluate_sequencerSound point
  exact (captureFrameEnd_move _ _ { matchFrameEnd (ctx.closed s.tb.timeReset) s with mu := _ }).sequencerSound hm

/-- R62, R85: a session's start puts the sequencer in WATCHING at its first stage, in a storing state. -/
theorem startSession_sequencerSound {s : State} (hq : SequencerConfigured s.seq) :
    SequencerSound (startSession s) := by
  refine sequencerSound_enter (q := { s.seq with sessionStart := s.tap.frameStarts }) (k := 0) hq hq.1 rfl ?_
  simp only [startSession_cc]
  split <;> rfl

theorem takeSyncEdge_sequencerSound {s : State} (hs : SequencerSound s) : SequencerSound (takeSyncEdge s) := by
  obtain ⟨t, rfl, h | ⟨_, h⟩⟩ := takeSyncEdge_cases s
  · rw [h]; exact sequencerSound_of_eq (s := s) (by simp) (by simp) hs
  · rw [h]; exact startSession_sequencerSound (by simpa using hs.configured)

/-- R84: an ARM starts the session, or leaves the sequencer in IDLE to wait for SYNC. -/
theorem beginSession_sequencerSound (onSync : Bool) {s : State} (hs : SequencerSound s)
    (hi : s.seq.state = .idle) : SequencerSound (beginSession onSync s) := by
  obtain h | h | h := beginSession_cases onSync s <;> rw [h]
  · exact sequencerSound_idle (q := s.seq) hs.configured (hs.toIdle_eq hi).symm
  · exact startSession_sequencerSound hs.configured
  · exact sequencerSound_of_eq (by simp) (by simp) (startSession_sequencerSound hs.configured)

theorem completeReply_session (s : State) :
    (completeReply s).seq = s.seq ∧ (completeReply s).cc.state = s.cc.state := by
  unfold completeReply
  obtain h | ⟨_, _, _, rfl, h⟩ := consumeRecord_cases s <;> (rw [h]; exact ⟨rfl, rfl⟩)

theorem expireHold_session (e : Episode) (s : State) :
    (expireHold e s).seq = s.seq ∧ (expireHold e s).cc = s.cc := by
  simp [expireHold, releaseHold]

theorem applyLinkControl_state (d i : Option Bool) (l : Option OpcodeLanes) (s : State) :
    (applyLinkControl d i l s).cc.state = s.cc.state := by
  have ha : (abandonFrame s).cc.state = s.cc.state := by unfold abandonFrame; split <;> rfl
  unfold applyLinkControl setDecodeEnable
  dsimp only
  split
  · rfl
  · split
    · rfl
    · exact ha

/-- R70: a tick advances the timer alone, which is stopped in IDLE and TRIGGERED. -/
theorem tick_sequencerSound {s t : State} (hseq : t.seq = s.seq.tick) (hcc : t.cc = s.cc) (hs : SequencerSound s) :
    SequencerSound t := by
  obtain ⟨hlow, hhigh, hreq, hwatch, hidle, htrig, hstoring⟩ := hs
  rw [SequencerSound, hseq, hcc]
  refine ⟨hlow, hhigh, hreq, hwatch, fun hi => ?_, fun ht => ?_, hstoring⟩
  · obtain ⟨hstage, hocc, htimer⟩ := hidle hi
    exact ⟨hstage, hocc, by simp [Sequencer.tick, htimer]⟩
  · obtain ⟨hocc, htimer⟩ := htrig ht
    exact ⟨hocc, by simp [Sequencer.tick, htimer]⟩

theorem expired_watching {q : Sequencer} (h : q.expired = true) : q.state = .watching := by
  simp only [Sequencer.expired, Bool.and_eq_true, decide_eq_true_eq] at h
  exact h.1

/-- Configuration changes come in IDLE alone; a session's moves, hits and expiries keep the ranges (R61 to R75). -/
theorem sequencerSound_moves : Moves SequencerSound := by
  constructor
  case powerOn | powerLoss | pinFalls =>
    intros; exact sequencerSound_idle (q := Sequencer.reset) reset_sequencerConfigured rfl
  case frameBegins => exact fun s n hs _ _ => beginFrame_sequencerSound n hs
  case frameEnds =>
    exact fun s n ctx hs _ _ => settle_sequencerSound _ (endFrame_sequencerSound ctx hs)
  case pulse =>
    exact fun s k ctx hs _ => settle_sequencerSound _ (takePulse_sequencerSound k.lanes ctx hs)
  case tick => exact fun s hs _ => tick_sequencerSound rfl rfl hs
  case stageExpires =>
    exact fun s hs he => settle_sequencerSound _ (expireStage_sequencerSound hs (expired_watching he))
  case holdExpires =>
    intro s e hs _
    obtain ⟨hseq, hcc⟩ := expireHold_session e s
    exact settle_sequencerSound _ (sequencerSound_of_eq hseq (by rw [hcc]) hs)
  case syncEdge => exact fun s hs _ _ => settle_sequencerSound _ (takeSyncEdge_sequencerSound hs)
  case xtEdge => exact fun s hs _ => settle_sequencerSound _ (takeHit_sequencerSound 8 hs)
  case replyCompletes =>
    intro s hs _ _
    obtain ⟨hseq, hstate⟩ := completeReply_session s
    exact settle_sequencerSound _ (sequencerSound_of_eq hseq hstate hs)
  case softReset =>
    exact fun s hs => sequencerSound_idle (q := { s.seq with trigCount := 0 }) hs.configured rfl
  case linkControl =>
    exact fun s d i l hs _ _ => sequencerSound_of_eq (by simp) (applyLinkControl_state d i l s) hs
  case stage =>
    intro s n a g hs ha hg
    obtain ⟨_, _, _, hreq, _⟩ := (stage?_some a g).mp hg
    obtain ⟨hlow, hhigh, hset⟩ := hs.configured
    refine hs.reconfigured ha ⟨hlow, hhigh, fun k => ?_⟩ rfl
    have hk := hset k
    simp only [Vector.get_eq_getElem] at hk ⊢
    rw [Vector.getElem_set]
    split
    · exact hreq
    · exact hk
  case sequence =>
    intro s n hs ha h1 h4
    obtain ⟨_, _, hreq⟩ := hs.configured
    exact hs.reconfigured ha ⟨h1, h4, hreq⟩ rfl
  case forces =>
    intro s hs hw
    have hne : s.seq.state ≠ .idle := by simp [hw]
    obtain ⟨_, _, _, _, _, _, hstoring⟩ := id hs
    exact settle_sequencerSound _ (declareTrigger_sequencerSound .forced hs.configured (hstoring hne) hne)
  case arms =>
    intro s o k hs ha _
    have hi := hs.idle_of_inactive ha
    refine settle_sequencerSound _ (beginSession_sequencerSound o ?_ ?_)
    · exact hs.reconfigured ha (by rw [prepareSession_seq]; exact hs.configured) (by rw [prepareSession_seq])
    · rw [prepareSession_seq]; exact hi
  case stops =>
    exact fun s hs _ => settle_sequencerSound _ ((completeSession_move .stopped s).sequencerSound hs)
  case clears => exact fun s hs _ => settle_sequencerSound _ hs
  case skips =>
    intro s k hs _
    refine settle_sequencerSound _ ?_
    unfold skipRecords
    split
    · exact hs
    · exact sequencerSound_of_eq (s := s) rfl rfl hs
  case rewinds => exact fun s m hs _ => settle_sequencerSound _ hs
  case releases => exact fun s m hs _ => settle_sequencerSound _ (sequencerSound_of_eq (s := s) rfl rfl hs)
  case syncs => exact fun s hs _ => sequencerSound_of_eq (by simp) (by simp) hs
  all_goals intros; assumption

/-- Settles O6: an invariant of the list of moves. -/
theorem stepKeepsSequencerSound : Obligations.StepKeepsSequencerSound :=
  fun _ _ hs h => sequencerSound_moves.step (fun _ _ hs => hs) hs h

end Sys2Proof.Machine
end

section
/-! The watermark state and HOLD agree with the trace and the session after every step: what a happening leaves to
`settle` to judge (R114, R135, R136). -/

namespace Sys2Proof.Machine
open Sys2Proof

/-- What the two judgements rest on beside what the happening changed: the watermark and its state, the episode, the
capture setup. -/
structure Judgeable (s t : State) : Prop where
  watermark : t.ru.watermark = s.ru.watermark
  reached : t.ru.reached = s.ru.reached
  episode : t.tm.episode = s.tm.episode
  setup : t.cc.setup = s.cc.setup

theorem Judgeable.refl (s : State) : Judgeable s s := ⟨rfl, rfl, rfl, rfl⟩

theorem Judgeable.trans {s t u : State} (h : Judgeable s t) (k : Judgeable t u) : Judgeable s u :=
  ⟨k.watermark.trans h.watermark, k.reached.trans h.reached, k.episode.trans h.episode, k.setup.trans h.setup⟩

theorem Judgeable.of_quiet {s t : State} (h : Quiet s t) (hj : Unjudged s t) : Judgeable s t :=
  ⟨h.watermark, hj.1, hj.2, h.setup⟩

theorem Judgeable.watermarkSound {s t : State} (h : Judgeable s t) (hs : WatermarkSound s) :
    WatermarkSound (settle s t) :=
  settle_watermarkSound hs h.watermark (.inl h.reached)

theorem Judgeable.holdSound {s t : State} (h : Judgeable s t) (hs : HoldSound s) : HoldSound (settle s t) :=
  settle_holdSound hs (by rw [h.setup]) (by rw [h.episode])

/-! ### The happenings leave both to be judged -/

theorem evaluate_judgeable (point : Slot → SlotProgress → SlotProgress × Bool) (s : State) :
    Judgeable s (evaluate point s) := by
  obtain h | ⟨e, _, h⟩ := evaluate_spec point s
  · rw [h]; exact .refl s
  · have hu := evaluate_unjudged point s
    exact ⟨h.watermark, hu.1, hu.2, h.setup⟩

theorem takePulse_judgeable (l : LinkLanes) (ctx : FrameContext) (s : State) :
    Judgeable s (takePulse l ctx s) :=
  takePulse_keeps (P := Judgeable s) (fun _ _ => ⟨rfl, rfl, rfl, rfl⟩) fun point t h =>
    h.trans (evaluate_judgeable point t)

theorem endFrame_judgeable (ctx : FrameContext) (s : State) : Judgeable s (endFrame ctx s) := by
  obtain ⟨m, e, hm, he, h⟩ := endFrame_eq ctx s
  have hmatched : Judgeable s m := hm ▸ matchFrameEnd_keeps (P := Judgeable s) (.refl s)
    fun point t h => h.trans (evaluate_judgeable point t)
  have hclosed : Judgeable s { m with mu := { m.mu with eval := none } } :=
    hmatched.trans ⟨rfl, rfl, rfl, rfl⟩
  have hended : Judgeable s e := by
    rw [he]
    exact hclosed.trans (.of_quiet (captureFrameEnd_quiet _ _ _) (captureFrameEnd_unjudged _ _ _))
  rw [h]
  exact hended.trans ⟨rfl, rfl, rfl, rfl⟩

theorem takeSyncEdge_judgeable (s : State) : Judgeable s (takeSyncEdge s) := by
  obtain ⟨t, rfl, h | ⟨_, h⟩⟩ := takeSyncEdge_cases s <;>
    (rw [h]; constructor <;> simp)

theorem completeReply_judgeable (s : State) : Judgeable s (completeReply s) := by
  unfold completeReply
  obtain h | ⟨_, _, _, rfl, h⟩ := consumeRecord_cases s <;> (rw [h]; exact ⟨rfl, rfl, rfl, rfl⟩)

theorem beginSession_judgeable (onSync : Bool) (s : State) : Judgeable s (beginSession onSync s) := by
  constructor <;> simp

theorem prepareSession_keep_judgeable (s : State) : Judgeable s (prepareSession true s) := ⟨rfl, rfl, rfl, rfl⟩

theorem prepareSession_discard_judgeable (s : State) : Judgeable (emptyTrace s) (prepareSession false s) :=
  ⟨rfl, rfl, rfl, rfl⟩

theorem skipRecords_judgeable (k : Nat) (s : State) : Judgeable s (skipRecords k s) := by
  unfold skipRecords
  split
  · exact .refl s
  · exact ⟨rfl, rfl, rfl, rfl⟩

/-! ### The watermark -/

/-- A trace emptied in a happening leaves the watermark state BELOW with nothing unread (R138). -/
theorem emptied_watermarkSound {s t : State} (hs : WatermarkSound s) (h : Judgeable (emptyTrace s) t)
    (htrace : t.tm.trace = []) : WatermarkSound (settle s t) := by
  refine settle_watermarkSound hs h.watermark (.inr ⟨h.reached, ?_⟩)
  simp [State.unread, htrace]

theorem watermarkSound_below {t : State} (hreached : t.ru.reached = false)
    (h : t.ru.watermark = 0 ∨ t.unread = 0) : WatermarkSound t := by
  rw [WatermarkSound, hreached]
  simp only [Bool.false_eq_true, false_iff]
  omega

theorem reportViolation_readout (n : Fin 4) (s : State) :
    (reportViolation n s).ru = s.ru ∧ (reportViolation n s).tm.trace = s.tm.trace ∧
      (reportViolation n s).tm.free = s.tm.free ∧ (reportViolation n s).tm.holdSpent = s.tm.holdSpent ∧
      (reportViolation n s).tm.episode.isSome = s.tm.episode.isSome := by
  obtain h | ⟨e, he, h⟩ := reportViolation_cases n s
  · simp [h]
  · simp [h, he]

/-- R10, R118: a frame start leaves the readout, the trace and whether an episode runs. -/
theorem beginFrame_readout (n : Fin 4) (s : State) :
    (beginFrame n s).ru = s.ru ∧ (beginFrame n s).tm.trace = s.tm.trace ∧
      (beginFrame n s).tm.free = s.tm.free ∧ (beginFrame n s).tm.holdSpent = s.tm.holdSpent ∧
      (beginFrame n s).tm.episode.isSome = s.tm.episode.isSome :=
  reportViolation_readout n _

theorem expireHold_readout (e : Episode) (s : State) :
    (expireHold e s).ru = s.ru ∧ (expireHold e s).tm = { s.tm with holdSpent := true, episode := none } := by
  simp [expireHold, releaseHold]

/-- A reset leaves W at 0; the other moves change the watermark state by a judgement, SET WATERMARK by what it finds
(R135, R136). -/
theorem watermarkSound_moves : Moves WatermarkSound := by
  constructor
  case powerOn | powerLoss | pinFalls => intros; exact watermarkSound_below rfl (.inl rfl)
  case frameBegins =>
    intro s n hs _ _
    obtain ⟨hru, htrace, _⟩ := beginFrame_readout n { s with hSel := s.hSel ||| selectBit n }
    exact watermarkSound_of_eq hru htrace hs
  case frameEnds => exact fun s n ctx hs _ _ => (endFrame_judgeable ctx _).watermarkSound hs
  case pulse => exact fun s k ctx hs _ => (takePulse_judgeable k.lanes ctx _).watermarkSound hs
  case stageExpires =>
    exact fun s hs _ => (Judgeable.of_quiet (expireStage_quiet s) (expireStage_unjudged s)).watermarkSound hs
  case holdExpires =>
    intro s e hs _
    obtain ⟨hru, _⟩ := expireHold_readout e s
    exact settle_watermarkSound hs (by rw [hru]) (.inl (by rw [hru]))
  case syncEdge => exact fun s hs _ _ => (takeSyncEdge_judgeable s).watermarkSound hs
  case xtEdge => exact fun s hs _ => (Judgeable.of_quiet (takeHit_quiet 8 s) (takeHit_unjudged 8 s)).watermarkSound hs
  case replyCompletes => exact fun s hs _ _ => (completeReply_judgeable s).watermarkSound hs
  case softReset => exact fun s hs => watermarkSound_below rfl (.inr rfl)
  case linkControl => exact fun s d i l hs _ _ => watermarkSound_of_eq (by simp) (by simp) hs
  case forces =>
    exact fun s hs _ =>
      (Judgeable.of_quiet (declareTrigger_quiet .forced s) (declareTrigger_unjudged .forced s)).watermarkSound hs
  case arms =>
    intro s o k hs _ _
    cases k with
    | true => exact ((prepareSession_keep_judgeable s).trans (beginSession_judgeable o _)).watermarkSound hs
    | false =>
      refine emptied_watermarkSound hs ((prepareSession_discard_judgeable s).trans (beginSession_judgeable o _)) ?_
      rw [beginSession_tm]
      rfl
  case stops =>
    exact fun s hs _ =>
      (Judgeable.of_quiet (completeSession_quiet .stopped s) (completeSession_unjudged .stopped s)).watermarkSound hs
  case clears => exact fun s hs _ => emptied_watermarkSound hs (.refl _) rfl
  case skips => exact fun s k hs _ => (skipRecords_judgeable k s).watermarkSound hs
  case rewinds => exact fun s m hs _ => Judgeable.watermarkSound ⟨rfl, rfl, rfl, rfl⟩ hs
  case releases => exact fun s m hs _ => Judgeable.watermarkSound ⟨rfl, rfl, rfl, rfl⟩ hs
  case watermark =>
    intro s w _ _
    simp only [WatermarkSound, Bool.and_eq_true, decide_eq_true_eq]
    rfl
  case syncs => exact fun s hs _ => watermarkSound_of_eq (by simp) (by simp) hs
  all_goals intros; assumption

/-- Settles O7: an invariant of the list of moves. -/
theorem stepKeepsWatermarkSound : Obligations.StepKeepsWatermarkSound :=
  fun _ _ hs h => watermarkSound_moves.step (fun _ _ hs => hs) hs h

/-! ### HOLD -/

/-- HOLD depends on whether an episode runs, on the free units and on the hold conditions (R114). -/
theorem holdSound_of_eq {s t : State} (hepisode : t.tm.episode.isSome = s.tm.episode.isSome)
    (hfree : t.tm.free = s.tm.free) (hspent : t.tm.holdSpent = s.tm.holdSpent) (hstate : t.cc.state = s.cc.state)
    (hsetup : t.cc.setup = s.cc.setup) (hs : HoldSound s) : HoldSound t := by
  obtain ⟨hon, hoff⟩ := hs
  have hcond : holdConditions t = holdConditions s := by simp [holdConditions, hstate, hsetup, hspent]
  rw [HoldSound, hepisode, hcond, hfree]
  refine ⟨hon, fun hnone => hoff ?_⟩
  rw [← Option.not_isSome_iff_eq_none, ← hepisode, hnone]
  simp

/-- Without the hold conditions HOLD is sound when no episode runs. -/
theorem holdSound_released {t : State} (hcond : holdConditions t = false) (hepisode : t.tm.episode = none) :
    HoldSound t := by
  simp [HoldSound, hcond, hepisode]

theorem holdConditions_inactive {s : State} (h : s.cc.state.isActive = false) : holdConditions s = false := by
  unfold holdConditions
  cases hc : s.cc.state <;> simp_all [CaptureState.isActive]

/-- R114: no episode runs without the hold conditions. -/
theorem HoldSound.episode_none {s : State} (h : HoldSound s) (hcond : holdConditions s = false) :
    s.tm.episode = none := by
  rw [← Option.not_isSome_iff_eq_none]
  intro hsome
  rw [(h.1 hsome).1] at hcond
  cases hcond

/-- R117: an expiry sets hold-spent, which it finds clear, so HOLD is judged after it. -/
theorem expireHold_holdSound {s : State} {e : Episode} (hs : HoldSound s) (he : holdExpiring s = some e) :
    HoldSound (happening (expireHold e) s) := by
  have hsome : s.tm.episode.isSome = true := by
    unfold holdExpiring at he
    split at he
    · next h => simp [h]
    · cases he
  have hspent : s.tm.holdSpent = false := by
    have hcond := (hs.1 hsome).1
    simp only [holdConditions, Bool.and_eq_true, Bool.not_eq_true'] at hcond
    exact hcond.2
  obtain ⟨_, htm⟩ := expireHold_readout e s
  unfold happening settle
  dsimp only
  rw [if_neg]
  · exact judgeHold_holdSound _
  · rintro ⟨_, _, h⟩
    rw [htm, hspent] at h
    cases h

/-- HOLD is judged wherever what it rests on changes; the setup changes with no session active (R79, R114). -/
theorem holdSound_moves : Moves HoldSound := by
  constructor
  case powerOn | powerLoss | pinFalls | softReset => intros; exact holdSound_released rfl rfl
  case frameBegins =>
    intro s n hs _ _
    obtain ⟨_, _, hfree, hspent, hepisode⟩ := beginFrame_readout n { s with hSel := s.hSel ||| selectBit n }
    obtain ⟨_, hcc⟩ := beginFrame_session n { s with hSel := s.hSel ||| selectBit n }
    exact holdSound_of_eq (s := s) hepisode hfree hspent (by rw [hcc, takeFrameStart_state])
      (by rw [hcc, takeFrameStart_setup]) hs
  case frameEnds => exact fun s n ctx hs _ _ => (endFrame_judgeable ctx _).holdSound hs
  case pulse => exact fun s k ctx hs _ => (takePulse_judgeable k.lanes ctx _).holdSound hs
  case tick => exact fun s hs _ => holdSound_of_eq (s := s) (by simp) rfl rfl rfl rfl hs
  case stageExpires =>
    exact fun s hs _ => (Judgeable.of_quiet (expireStage_quiet s) (expireStage_unjudged s)).holdSound hs
  case holdExpires => exact fun s e hs he => expireHold_holdSound hs he
  case syncEdge => exact fun s hs _ _ => (takeSyncEdge_judgeable s).holdSound hs
  case xtEdge => exact fun s hs _ => (Judgeable.of_quiet (takeHit_quiet 8 s) (takeHit_unjudged 8 s)).holdSound hs
  case replyCompletes => exact fun s hs _ _ => (completeReply_judgeable s).holdSound hs
  case linkControl =>
    exact fun s d i l hs _ _ => holdSound_of_eq (by simp) (by simp) (by simp) (applyLinkControl_state d i l s)
      (applyLinkControl_setup d i l s) hs
  case setup =>
    intro s a c hs ha _
    have hcond : holdConditions s = false := holdConditions_inactive ha
    exact holdSound_released (holdConditions_inactive ha) (hs.episode_none hcond)
  case forces =>
    exact fun s hs _ =>
      (Judgeable.of_quiet (declareTrigger_quiet .forced s) (declareTrigger_unjudged .forced s)).holdSound hs
  case arms =>
    intro s o k hs _ _
    refine settle_holdSound hs ?_ ?_
    · rw [beginSession_setup, prepareSession_setup]
    · rw [beginSession_tm, prepareSession_tm]
      cases k <;> rfl
  case stops =>
    exact fun s hs _ =>
      (Judgeable.of_quiet (completeSession_quiet .stopped s) (completeSession_unjudged .stopped s)).holdSound hs
  case clears => exact fun s hs _ => settle_holdSound hs rfl rfl
  case skips => exact fun s k hs _ => (skipRecords_judgeable k s).holdSound hs
  case rewinds => exact fun s m hs _ => Judgeable.holdSound ⟨rfl, rfl, rfl, rfl⟩ hs
  case releases => exact fun s m hs _ => Judgeable.holdSound ⟨rfl, rfl, rfl, rfl⟩ hs
  case syncs => exact fun s hs _ => holdSound_of_eq (by simp) (by simp) (by simp) (by simp) (by simp) hs
  all_goals intros; assumption

/-- Settles O8: an invariant of the list of moves. -/
theorem stepKeepsHoldSound : Obligations.StepKeepsHoldSound :=
  fun _ _ hs h => holdSound_moves.step (fun _ _ hs => hs) hs h

end Sys2Proof.Machine
end

section
/-! The pre-trigger record count is the number of pre-trigger FRAME records held, at every step (R94). -/

namespace Sys2Proof.Machine
open Sys2Proof

theorem preTriggerSound_of_eq {s t : State} (hstate : t.cc.state = s.cc.state) (hsetup : t.cc.setup = s.cc.setup)
    (hcount : t.cc.preCount = s.cc.preCount) (htrace : t.tm.trace = s.tm.trace) (hs : PreTriggerSound s) :
    PreTriggerSound t :=
  preKept_of_eq hstate hsetup hcount htrace hs

theorem takeFrameStart_preCount (c : Capture) : c.takeFrameStart.preCount = c.preCount := by
  unfold Capture.takeFrameStart
  split <;> rfl

theorem beginFrame_preKept (n : Fin 4) (s : State) : PreKept s (beginFrame n s) := by
  obtain ⟨_, hcc⟩ := beginFrame_session n s
  obtain ⟨_, htrace, _⟩ := beginFrame_readout n s
  exact preTriggerSound_of_eq (by rw [hcc, takeFrameStart_state]) (by rw [hcc, takeFrameStart_setup])
    (by rw [hcc, takeFrameStart_preCount]) htrace

theorem takePulse_preKept (l : LinkLanes) (ctx : FrameContext) (s : State) : PreKept s (takePulse l ctx s) :=
  fun hs => takePulse_keeps (fun _ _ => hs) fun point t => evaluate_preKept point t

theorem endFrame_preKept (ctx : FrameContext) (s : State) : PreKept s (endFrame ctx s) := by
  intro hs
  obtain ⟨m, e, rfl, rfl, h⟩ := endFrame_eq ctx s
  rw [h]
  exact captureFrameEnd_preKept _ _ _ <| matchFrameEnd_keeps hs fun point t => evaluate_preKept point t

theorem expireHold_preKept (e : Episode) (s : State) : PreKept s (expireHold e s) := by
  obtain ⟨_, hcc⟩ := expireHold_session e s
  obtain ⟨_, htm⟩ := expireHold_readout e s
  exact preTriggerSound_of_eq (by rw [hcc]) (by rw [hcc]) (by rw [hcc]) (by rw [htm])

/-- R85: a session starts with nothing of its own held, in PRETRIG by a WINDOW setup alone. -/
theorem startSession_preTriggerSound {s : State} (hcount : preRecords s.tm.trace = s.cc.preCount)
    (hdepth : s.cc.preCount ≤ s.cc.setup.depth) : PreTriggerSound (startSession s) := by
  refine ⟨?_, fun _ => ⟨hcount, hdepth⟩⟩
  simp only [startSession_cc]
  split
  · next hmode => exact fun _ => hmode
  · simp

theorem takeSyncEdge_preKept (s : State) : PreKept s (takeSyncEdge s) := by
  obtain ⟨t, rfl, h | ⟨hwait, h⟩⟩ := takeSyncEdge_cases s
  · rw [h]
    exact preTriggerSound_of_eq (by simp) (by simp) (by simp) (by simp)
  · rw [h]
    rintro ⟨_, hactive⟩
    simp only [raiseEvent_cc, zeroTime_cc] at hwait
    obtain ⟨hcount, hdepth⟩ := hactive (by rw [hwait]; rfl)
    exact startSession_preTriggerSound (by simpa using hcount) (by simpa using hdepth)

/-- R84: an ARM taken OK finds the trace empty, or empties it, and starts its counts at 0. -/
theorem armed_preTriggerSound {onSync keep : Bool} {s : State} (hkeep : keep = true → s.tm.trace = []) :
    PreTriggerSound (beginSession onSync (prepareSession keep s)) := by
  have hcount : (prepareSession keep s).cc.preCount = 0 := by cases keep <;> rfl
  have htrace : preRecords (prepareSession keep s).tm.trace = (prepareSession keep s).cc.preCount := by
    rw [hcount, prepareSession_tm]
    cases keep with
    | true => simp [hkeep rfl, preRecords]
    | false => rfl
  have hdepth : (prepareSession keep s).cc.preCount ≤ (prepareSession keep s).cc.setup.depth := by
    rw [hcount]
    exact Nat.zero_le _
  obtain h | h | h := beginSession_cases onSync (prepareSession keep s) <;> rw [h]
  · exact ⟨by simp, fun _ => ⟨htrace, hdepth⟩⟩
  · exact startSession_preTriggerSound htrace hdepth
  · exact preTriggerSound_of_eq (by simp) (by simp) (by simp) (by simp) (startSession_preTriggerSound htrace hdepth)

theorem completeReply_preKept (s : State) : PreKept s (completeReply s) := by
  unfold completeReply
  obtain h | ⟨_, _, _, rfl, h⟩ := consumeRecord_cases s
  · rw [h]
    exact preTriggerSound_of_eq rfl rfl rfl rfl
  · rw [h]
    intro hs
    exact preTriggerSound_of_eq (s := freeRead _) rfl rfl rfl rfl <|
      freeRead_preKept { s with ru := { s.ru with cursor := s.ru.cursor + 1 } } hs

/-- Removals and appends carry the count with the records; the setup changes, and the trace is emptied, with no session
active (R79, R87, R94). -/
theorem preTriggerSound_moves : Moves PreTriggerSound := by
  constructor
  case powerOn | powerLoss | pinFalls | softReset => intros; exact preTriggerSound_inactive rfl
  case frameBegins => exact fun s n hs _ _ => beginFrame_preKept n _ hs
  case frameEnds => exact fun s n ctx hs _ _ => settle_preKept _ _ (endFrame_preKept ctx _ hs)
  case pulse => exact fun s k ctx hs _ => settle_preKept _ _ (takePulse_preKept k.lanes ctx _ hs)
  case stageExpires => exact fun s hs _ => settle_preKept _ _ (expireStage_preKept s hs)
  case holdExpires => exact fun s e hs _ => settle_preKept _ _ (expireHold_preKept e s hs)
  case syncEdge => exact fun s hs _ _ => settle_preKept _ _ (takeSyncEdge_preKept s hs)
  case xtEdge => exact fun s hs _ => settle_preKept _ _ (takeHit_preKept 8 s hs)
  case replyCompletes => exact fun s hs _ _ => settle_preKept _ _ (completeReply_preKept s hs)
  case linkControl =>
    intro s d i l _ ha _
    refine preTriggerSound_inactive ?_
    rw [applyLinkControl_state]
    exact ha
  case setup => exact fun s a c _ ha _ => preTriggerSound_inactive ha
  case forces => exact fun s hs _ => settle_preKept _ _ (declareTrigger_preKept .forced s hs)
  case arms => exact fun s o k _ _ hk => settle_preKept _ _ (armed_preTriggerSound fun h => (hk h).2)
  case stops => exact fun s hs _ => settle_preKept _ _ (completeSession_preKept .stopped s hs)
  case clears => exact fun s _ ha => settle_preKept _ _ (preTriggerSound_inactive ha)
  case skips =>
    intro s k hs _
    refine settle_preKept _ _ ?_
    unfold skipRecords
    split
    · exact hs
    · exact freeRead_preKept { s with ru := { s.ru with cursor := s.ru.cursor + k } } hs
  case rewinds => exact fun s m hs _ => settle_preKept _ _ hs
  case releases =>
    exact fun s m hs _ => settle_preKept _ _ (freeRead_preKept { s with ru := { s.ru with mark := none } } hs)
  case syncs => exact fun s hs _ => preTriggerSound_of_eq (by simp) (by simp) (by simp) (by simp) hs
  all_goals intros; assumption

/-- Settles O10: an invariant of the list of moves. -/
theorem stepKeepsPreTriggerSound : Obligations.StepKeepsPreTriggerSound :=
  fun _ _ hs h => preTriggerSound_moves.step (fun _ _ hs => hs) hs h

end Sys2Proof.Machine
end

section
/-! The Match Unit's evaluation: which slots a point reaches, the progress and the hit set it leaves, and what the frame
conditions, the window, the NONE and the ANOMALY points ask (R39 to R54). -/

namespace Sys2Proof.Machine
open Sys2Proof

/-! ### The hit set -/

theorem packBits_getLsbD (member : Fin 8 → Bool) (i : Fin 8) :
    (packBits (member 0) (member 1) (member 2) (member 3) (member 4) (member 5) (member 6) (member 7)).getLsbD i.val =
      member i := by
  fin_cases i <;> simp only [packBits, BitVec.getLsbD_append, BitVec.getLsbD_ofBool] <;> rfl

/-- R192: bit `i` of a slot set is slot `i`'s membership. -/
theorem slotSet_getLsbD (member : Fin 8 → Bool) (i : Fin 8) : (slotSet member).getLsbD i.val = member i :=
  packBits_getLsbD member i

theorem group_getLsbD (e : Evaluation) (point : Slot → SlotProgress → SlotProgress × Bool) (i : Fin 8) :
    (e.group point).getLsbD i.val = (slotPoint point (e.copy.get i) (e.progress.get i)).2 :=
  slotSet_getLsbD _ i

theorem after_progress (e : Evaluation) (point : Slot → SlotProgress → SlotProgress × Bool) (i : Fin 8) :
    (e.after point).progress.get i = (slotPoint point (e.copy.get i) (e.progress.get i)).1 := by
  simp [Evaluation.after, Vector.get_eq_getElem]

/-- R52: a slot that is done is not evaluated. -/
theorem slotPoint_of_done {point : Slot → SlotProgress → SlotProgress × Bool} {f : Slot} {p : SlotProgress}
    (h : p.done = true) : slotPoint point f p = (p, false) := by
  rw [slotPoint, if_pos h]

/-- R52: a slot that hits is done, its open pair dropped; one that does not moves as its point says. -/
theorem slotPoint_of_not_done {point : Slot → SlotProgress → SlotProgress × Bool} {f : Slot} {p : SlotProgress}
    (h : p.done = false) : slotPoint point f p =
      (if (point f p).2 then { (point f p).1 with done := true, openPair := false } else (point f p).1,
        (point f p).2) := by
  rw [slotPoint, if_neg (by simp [h])]
  cases hp : (point f p).2 <;> simp [hp]

/-! ### The hit set is the set of slots that are done -/

/-- A point that judges a slot and leaves its done indication to `slotPoint`. -/
def KeepsDone (point : Slot → SlotProgress → SlotProgress × Bool) : Prop :=
  ∀ f p, (point f p).1.done = p.done

theorem noneAt_keepsDone (ctx : FrameContext) : KeepsDone (noneAt ctx) := fun _ _ => rfl

theorem anomalyAt_keepsDone (ctx : FrameContext) : KeepsDone (anomalyAt ctx) := fun _ _ => rfl

theorem wordAt_keepsDone (ctx : FrameContext) (w : DataWord) : KeepsDone (wordAt ctx w) := by
  intro f p
  unfold wordAt pairStep
  split
  · split
    · rfl
    · split <;> rfl
    · rfl
  · rfl

theorem after_done {point : Slot → SlotProgress → SlotProgress × Bool} (hpoint : KeepsDone point) {e : Evaluation}
    (i : Fin 8) : ((e.after point).progress.get i).done =
      ((e.progress.get i).done || (e.group point).getLsbD i.val) := by
  rw [after_progress, group_getLsbD]
  cases hd : (e.progress.get i).done with
  | true => rw [slotPoint_of_done hd, hd]; rfl
  | false =>
    rw [slotPoint_of_not_done hd]
    cases hp : (point (e.copy.get i) (e.progress.get i)).2 with
    | true => rfl
    | false => exact (hpoint _ _).trans hd

/-- R52: the group that hits at a point joins the hit set as its slots become done. -/
theorem evaluate_evaluationSound {point : Slot → SlotProgress → SlotProgress × Bool} (hpoint : KeepsDone point)
    {s : State} (hs : EvaluationSound s) : EvaluationSound (evaluate point s) := by
  obtain h | ⟨e, he, hq⟩ := evaluate_spec point s
  · rw [h]; exact hs
  · intro e' he' i
    rw [hq.mu] at he'
    cases he'
    rw [after_done hpoint, ← hs e he i]
    exact BitVec.getLsbD_or

theorem takePulse_evaluationSound (l : LinkLanes) (ctx : FrameContext) {s : State} (hs : EvaluationSound s) :
    EvaluationSound (takePulse l ctx s) := by
  have hset : ∀ c, EvaluationSound (setContext c s) := fun _ => hs
  unfold takePulse takeOpcodeDone takeAddressDone takeByteDone
  dsimp only
  split
  · exact hset _
  · split
    · exact evaluate_evaluationSound (noneAt_keepsDone _) (hset _)
    · exact hset _
  · exact evaluate_evaluationSound (noneAt_keepsDone _) (hset _)
  · exact hset _
  · split
    · exact evaluate_evaluationSound (wordAt_keepsDone _ _) (hset _)
    · exact hset _
  · exact hset _
  · exact hset _

/-- R46: no evaluation is in progress, so no hit set is held. -/
theorem evaluationSound_none {t : State} (h : t.mu.eval = none) : EvaluationSound t := by
  intro e he
  rw [h] at he
  cases he

theorem evaluationSound_of_eq {s t : State} (h : t.mu.eval = s.mu.eval) (hs : EvaluationSound s) :
    EvaluationSound t := by
  rw [EvaluationSound, h]
  exact hs

theorem Quiet.evaluationSound {s t : State} (h : Quiet s t) (hs : EvaluationSound s) : EvaluationSound t :=
  evaluationSound_of_eq (by rw [h.mu]) hs

theorem reportViolation_mu (n : Fin 4) (s : State) : (reportViolation n s).mu = s.mu := by
  obtain h | ⟨e, _, h⟩ := reportViolation_cases n s <;> simp [h]

/-- R45, R46: an evaluation opens with no slot done and an empty hit set. -/
theorem beginFrame_evaluationSound (n : Fin 4) (s : State) : EvaluationSound (beginFrame n s) := by
  have hmu : (beginFrame n s).mu = s.mu.takeFrameStart s.cc.state.storing (s.tap.frameStarts + 1) := by
    exact reportViolation_mu n _
  intro e he i
  rw [hmu] at he
  simp only [MatchUnit.takeFrameStart] at he
  split at he
  · cases he
    simp [SlotProgress.fresh, Vector.get_eq_getElem]
  · cases he

/-- R55: a frame's end closes its evaluation. -/
theorem endFrame_eval (ctx : FrameContext) (s : State) : (endFrame ctx s).mu.eval = none := by
  obtain ⟨m, e, _, he, h⟩ := endFrame_eq ctx s
  rw [h, he]
  exact congrArg MatchUnit.eval (captureFrameEnd_quiet _ _ { m with mu := { m.mu with eval := none } }).mu

theorem applyLinkControl_eval (d i : Option Bool) (l : Option OpcodeLanes) (s : State) :
    (applyLinkControl d i l s).mu.eval = none ∨ (applyLinkControl d i l s).mu.eval = s.mu.eval := by
  have ha : (abandonFrame s).mu.eval = none ∨ (abandonFrame s).mu.eval = s.mu.eval := by
    unfold abandonFrame
    split
    · exact .inl rfl
    · exact .inr rfl
  unfold applyLinkControl setDecodeEnable
  dsimp only
  split
  · exact .inr rfl
  · split
    · exact .inr rfl
    · exact ha

theorem takeSyncEdge_mu (s : State) : (takeSyncEdge s).mu = s.mu := by
  obtain ⟨t, rfl, h | ⟨_, h⟩⟩ := takeSyncEdge_cases s <;> simp [h]

theorem expireHold_mu (e : Episode) (s : State) : (expireHold e s).mu = s.mu := by
  simp [expireHold, releaseHold]

theorem completeReply_mu (s : State) : (completeReply s).mu = s.mu := by
  obtain h | ⟨_, _, _, rfl, h⟩ := consumeRecord_cases s <;> exact (congrArg State.mu h).trans rfl

theorem skipRecords_mu (k : Nat) (s : State) : (skipRecords k s).mu = s.mu := by
  unfold skipRecords
  split <;> rfl

/-- Beside pulses, which reach the evaluation points, a move opens an evaluation, closes it, or leaves it (R45, R46,
R55). -/
theorem evaluationSound_moves : Moves EvaluationSound := by
  constructor
  case powerOn | powerLoss | pinFalls => intros; exact evaluationSound_none rfl
  case frameBegins => exact fun s n _ _ _ => beginFrame_evaluationSound n _
  case frameEnds =>
    exact fun s n ctx _ _ _ => (settle_quiet _ _).evaluationSound (evaluationSound_none (endFrame_eval ctx _))
  case pulse =>
    exact fun s k ctx hs _ => (settle_quiet _ _).evaluationSound (takePulse_evaluationSound k.lanes ctx hs)
  case stageExpires => exact fun s hs _ => (happening_quiet (expireStage_quiet s)).evaluationSound hs
  case holdExpires =>
    exact fun s e hs _ => (settle_quiet _ _).evaluationSound (evaluationSound_of_eq (by rw [expireHold_mu]) hs)
  case syncEdge =>
    exact fun s hs _ _ => (settle_quiet _ _).evaluationSound (evaluationSound_of_eq (by rw [takeSyncEdge_mu]) hs)
  case xtEdge => exact fun s hs _ => (happening_quiet (takeHit_quiet 8 s)).evaluationSound hs
  case replyCompletes =>
    exact fun s hs _ _ => (settle_quiet _ _).evaluationSound (evaluationSound_of_eq (by rw [completeReply_mu]) hs)
  case linkControl =>
    intro s d i l hs _ _
    obtain h | h := applyLinkControl_eval d i l s
    · exact evaluationSound_none h
    · exact evaluationSound_of_eq h hs
  case forces => exact fun s hs _ => (happening_quiet (declareTrigger_quiet .forced s)).evaluationSound hs
  case arms =>
    exact fun s o k hs _ _ => (settle_quiet _ _).evaluationSound (evaluationSound_of_eq (s := s) (by simp) hs)
  case stops => exact fun s hs _ => (happening_quiet (completeSession_quiet .stopped s)).evaluationSound hs
  case clears => exact fun s hs _ => (happening_quiet (emptyTrace_quiet s)).evaluationSound hs
  case skips =>
    exact fun s k hs _ => (settle_quiet _ _).evaluationSound (evaluationSound_of_eq (by rw [skipRecords_mu]) hs)
  case rewinds => exact fun s m hs _ => (settle_quiet _ _).evaluationSound hs
  case releases => exact fun s m hs _ => (settle_quiet _ _).evaluationSound hs
  case syncs => exact fun s hs _ => evaluationSound_of_eq (by simp) hs
  all_goals intros; assumption

/-- Settles O11: an invariant of the list of moves. -/
theorem stepKeepsEvaluationSound : Obligations.StepKeepsEvaluationSound :=
  fun _ _ hs h => evaluationSound_moves.step (fun _ _ hs => hs) hs h

end Sys2Proof.Machine
end

section
/-! The boundary state and the service frame state agree with the lines and the resets, and the port holds its place in
a frame, at every step (R3, R13, R156, R157, R161, R193). -/

namespace Sys2Proof.Machine
open Sys2Proof

/-! ### The boundary state against the lines -/

/-- The tap's part of `BoundarySound`. -/
def TapAgrees (b : Boundary) (decode reset : Bool) (selects : BitVec 4) : Prop :=
  (b = .reset ↔ reset = true) ∧ (b = .off ↔ reset = false ∧ decode = false) ∧ (reset = true → decode = true) ∧
  (b = .idle → selects = 0) ∧ (b = .skipping → selects ≠ 0) ∧ (∀ ctx, b = .inFrame ctx → selects ≠ 0)

/-- The port's part of `BoundarySound`. -/
def PortAgrees (f : PortFrame) (reset select : Bool) : Prop :=
  (f = .reset ↔ reset = true) ∧ (f = .noFrame ↔ reset = false ∧ select = false)

theorem boundarySound_iff (s : State) : BoundarySound s ↔
    TapAgrees s.tap.boundary s.tap.decodeEnable s.inReset s.hSel ∧ PortAgrees s.sp.frame s.inReset s.sSel := by
  constructor
  · rintro ⟨h1, h2, h3, h4, h5, h6, h7, h8⟩
    exact ⟨⟨h1, h2, h3, h4, h5, h6⟩, h7, h8⟩
  · rintro ⟨⟨h1, h2, h3, h4, h5, h6⟩, h7, h8⟩
    exact ⟨h1, h2, h3, h4, h5, h6, h7, h8⟩

section
variable (decode reset : Bool) (selects : BitVec 4)

@[simp] theorem tapAgrees_reset : TapAgrees .reset decode reset selects ↔ reset = true ∧ decode = true := by
  cases reset <;> simp [TapAgrees]

@[simp] theorem tapAgrees_off : TapAgrees .off decode reset selects ↔ reset = false ∧ decode = false := by
  cases reset <;> simp [TapAgrees]

@[simp] theorem tapAgrees_idle :
    TapAgrees .idle decode reset selects ↔ reset = false ∧ decode = true ∧ selects = 0 := by
  cases reset <;> simp [TapAgrees]

@[simp] theorem tapAgrees_skipping :
    TapAgrees .skipping decode reset selects ↔ reset = false ∧ decode = true ∧ selects ≠ 0 := by
  cases reset <;> simp [TapAgrees]

@[simp] theorem tapAgrees_inFrame (ctx : FrameContext) :
    TapAgrees (.inFrame ctx) decode reset selects ↔ reset = false ∧ decode = true ∧ selects ≠ 0 := by
  cases reset <;> simp [TapAgrees]

/-- R3, R13: out of reset, with decode enable on, the tap is in IDLE or SKIPPING by the selects. -/
theorem tapAgrees_by_selects (h : reset = false) (hd : decode = true) :
    TapAgrees (if selects = 0 then .idle else .skipping) decode reset selects := by
  split
  · next h0 => exact (tapAgrees_idle _ _ _).mpr ⟨h, hd, h0⟩
  · next h0 => exact (tapAgrees_skipping _ _ _).mpr ⟨h, hd, h0⟩

end

/-- The service frame is open: S_SEL is asserted and the port is neither in RESET nor in NO FRAME (R157). -/
def PortFrame.isOpen : PortFrame → Prop
  | .reset | .noFrame => False
  | _ => True

theorem portAgrees_open {f : PortFrame} (h : f.isOpen) (reset select : Bool) :
    PortAgrees f reset select ↔ reset = false ∧ select = true := by
  cases f with
  | reset | noFrame => exact h.elim
  | command | reply | trailer | ignoring => cases reset <;> simp [PortAgrees]

@[simp] theorem portAgrees_reset (reset select : Bool) : PortAgrees .reset reset select ↔ reset = true := by
  cases reset <;> simp [PortAgrees]

@[simp] theorem portAgrees_noFrame (reset select : Bool) :
    PortAgrees .noFrame reset select ↔ reset = false ∧ select = false := by
  cases reset <;> simp [PortAgrees]

/-- One open frame state agrees where another does. -/
theorem PortAgrees.reopened {f g : PortFrame} {reset select : Bool} (h : PortAgrees f reset select) (hf : f.isOpen)
    (hg : g.isOpen) : PortAgrees g reset select :=
  (portAgrees_open hg _ _).mpr ((portAgrees_open hf _ _).mp h)

/-- A frame state that is not RESET is open exactly when it is not NO FRAME. -/
theorem PortFrame.isOpen_of_ne {f : PortFrame} (h1 : f ≠ .reset) (h2 : f ≠ .noFrame) : f.isOpen := by
  cases f <;> simp_all [PortFrame.isOpen]

/-! ### The selects -/

theorem or_selectBit_ne_zero : ∀ (x : BitVec 4) (n : Fin 4), x ||| selectBit n ≠ 0 := by decide

theorem boundarySound_of_eq {s t : State} (hreset : t.inReset = s.inReset) (hb : t.tap.boundary = s.tap.boundary)
    (hd : t.tap.decodeEnable = s.tap.decodeEnable) (hsel : t.hSel = s.hSel) (hf : t.sp.frame = s.sp.frame)
    (hssel : t.sSel = s.sSel) (hs : BoundarySound s) : BoundarySound t := by
  rw [boundarySound_iff] at hs ⊢
  rw [hreset, hb, hd, hsel, hf, hssel]
  exact hs

theorem Quiet.inReset {s t : State} (h : Quiet s t) : t.inReset = s.inReset := by
  simp [State.inReset, h.powered, h.porActive, h.resetLow]

theorem Quiet.boundarySound {s t : State} (h : Quiet s t) (hs : BoundarySound s) : BoundarySound t :=
  boundarySound_of_eq h.inReset (by rw [h.tap]) (by rw [h.tap]) h.hSel h.frame h.sSel hs

/-- The tap and the selects change together, the resets and the port stay. -/
theorem boundarySound_of_tap {s t : State} (hreset : t.inReset = s.inReset) (hf : t.sp.frame = s.sp.frame)
    (hssel : t.sSel = s.sSel) (hs : BoundarySound s)
    (htap : TapAgrees s.tap.boundary s.tap.decodeEnable s.inReset s.hSel →
      TapAgrees t.tap.boundary t.tap.decodeEnable s.inReset t.hSel) : BoundarySound t := by
  rw [boundarySound_iff] at hs ⊢
  rw [hreset, hf, hssel]
  exact ⟨htap hs.1, hs.2⟩

/-- The port changes alone. -/
theorem boundarySound_of_port {s t : State} (hreset : t.inReset = s.inReset) (htap : t.tap = s.tap)
    (hsel : t.hSel = s.hSel) (hs : BoundarySound s)
    (hport : PortAgrees s.sp.frame s.inReset s.sSel → PortAgrees t.sp.frame s.inReset t.sSel) : BoundarySound t := by
  rw [boundarySound_iff] at hs ⊢
  rw [hreset, htap, hsel]
  exact ⟨hs.1, hport hs.2⟩

/-! ### What the happenings leave of the lines, the tap and the port -/

/-- Beside the frame context, a pulse leaves everything quiet but the evaluation. -/
theorem takePulse_boundary (l : LinkLanes) (ctx : FrameContext) (s : State) :
    ∃ c, (takePulse l ctx s).tap = { s.tap with boundary := .inFrame c } ∧
      (takePulse l ctx s).inReset = s.inReset ∧ (takePulse l ctx s).hSel = s.hSel ∧
      (takePulse l ctx s).sSel = s.sSel ∧ (takePulse l ctx s).sp.frame = s.sp.frame := by
  obtain ⟨c, _, h | ⟨point, h⟩⟩ := takePulse_cases l ctx s
  · exact ⟨c, by simp [h, State.inReset]⟩
  · refine ⟨c, ?_⟩
    rw [h]
    obtain h | ⟨e, _, hq⟩ := evaluate_spec point (setContext c s)
    · simp [h, State.inReset]
    · exact ⟨hq.tap, hq.inReset, hq.hSel, hq.sSel, hq.frame⟩

theorem evaluate_lines (point : Slot → SlotProgress → SlotProgress × Bool) (s : State) :
    (evaluate point s).inReset = s.inReset ∧ (evaluate point s).tap = s.tap ∧ (evaluate point s).hSel = s.hSel ∧
      (evaluate point s).sSel = s.sSel ∧ (evaluate point s).sp.frame = s.sp.frame := by
  obtain h | ⟨e, _, hq⟩ := evaluate_spec point s
  · simp [h]
  · exact ⟨hq.inReset, hq.tap, hq.hSel, hq.sSel, hq.frame⟩

/-- A frame's end leaves the resets, the selects and the port, and puts the tap in IDLE. -/
theorem endFrame_boundary (ctx : FrameContext) (s : State) :
    (endFrame ctx s).tap = { s.tap with boundary := .idle } ∧ (endFrame ctx s).inReset = s.inReset ∧
      (endFrame ctx s).hSel = s.hSel ∧ (endFrame ctx s).sSel = s.sSel ∧
      (endFrame ctx s).sp.frame = s.sp.frame := by
  obtain ⟨m, e, hm, he, h⟩ := endFrame_eq ctx s
  have hmatched : m.inReset = s.inReset ∧ m.tap = s.tap ∧ m.hSel = s.hSel ∧ m.sSel = s.sSel ∧
      m.sp.frame = s.sp.frame := by
    rw [hm]
    refine matchFrameEnd_keeps (P := fun m => m.inReset = s.inReset ∧ m.tap = s.tap ∧ m.hSel = s.hSel ∧
      m.sSel = s.sSel ∧ m.sp.frame = s.sp.frame) ⟨rfl, rfl, rfl, rfl, rfl⟩ fun point t ht => ?_
    obtain ⟨h1, h2, h3, h4, h5⟩ := evaluate_lines point t
    rw [h1, h2, h3, h4, h5]
    exact ht
  obtain ⟨hreset, htap, hsel, hssel, hframe⟩ := hmatched
  have hq := captureFrameEnd_quiet (ctx.closed s.tb.timeReset) m.mu.hitSet
    { m with mu := { m.mu with eval := none } }
  rw [← he] at hq
  rw [h]
  exact ⟨by simp [hq.tap, htap], hq.inReset.trans hreset, hq.hSel.trans hsel, hq.sSel.trans hssel,
    hq.frame.trans hframe⟩

theorem takeSyncEdge_boundary (s : State) (hs : BoundarySound s) : BoundarySound (takeSyncEdge s) := by
  obtain ⟨t, rfl, h | ⟨_, h⟩⟩ := takeSyncEdge_cases s <;>
    exact boundarySound_of_eq (s := s) (by simp [h, State.inReset]) (by simp [h]) (by simp [h]) (by simp [h])
      (by simp [h]) (by simp [h]) hs

theorem expireHold_quiet (e : Episode) (s : State) : Quiet s (expireHold e s) :=
  (raiseEvent_quiet (.holdExpired s.tm.free) s).trans <|
    Quiet.trans (t := { raiseEvent (.holdExpired s.tm.free) s with
      tm := { (raiseEvent (.holdExpired s.tm.free) s).tm with holdSpent := true } })
      (by constructor <;> rfl) (releaseHold_quiet .limit e _)

theorem reportViolation_quiet (n : Fin 4) (s : State) : Quiet s (reportViolation n s) := by
  obtain h | ⟨e, _, h⟩ := reportViolation_cases n s
  · rw [h]; exact .refl s
  · rw [h]
    exact Quiet.trans (t := { s with tm := { s.tm with episode := some { e with violated := true } } })
      (by constructor <;> rfl) (raiseEvent_quiet _ _)

theorem skipRecords_quiet (k : Nat) (s : State) : Quiet s (skipRecords k s) := by
  unfold skipRecords
  split
  · exact .refl s
  · exact Quiet.trans (t := { s with ru := { s.ru with cursor := s.ru.cursor + k } }) (by constructor <;> rfl)
      (freeRead_quiet _)

theorem rewindTo_quiet (m : Nat) (s : State) : Quiet s (rewindTo m s) := by constructor <;> rfl

theorem releaseMark_quiet (s : State) : Quiet s (releaseMark s) :=
  Quiet.trans (t := { s with ru := { s.ru with mark := none } }) (by constructor <;> rfl) (freeRead_quiet _)

/-- R156, R163: a reply's completion leaves the lines and the tap; the frame is in TRAILER. -/
theorem completeReply_boundary (s : State) :
    (completeReply s).inReset = s.inReset ∧ (completeReply s).tap = s.tap ∧ (completeReply s).hSel = s.hSel ∧
      (completeReply s).sSel = s.sSel ∧ (completeReply s).sp.frame = .trailer := by
  obtain h | ⟨_, _, _, rfl, h⟩ := consumeRecord_cases s <;>
    (unfold completeReply; rw [h]; exact ⟨rfl, rfl, rfl, rfl, rfl⟩)

/-- R7, R13: LINK CONTROL puts the tap where the decode enable and the selects say. -/
theorem applyLinkControl_tapAgrees (d i : Option Bool) (l : Option OpcodeLanes) {s : State}
    (hreset : s.inReset = false) (hs : TapAgrees s.tap.boundary s.tap.decodeEnable s.inReset s.hSel) :
    TapAgrees (applyLinkControl d i l s).tap.boundary (applyLinkControl d i l s).tap.decodeEnable s.inReset s.hSel := by
  unfold applyLinkControl setDecodeEnable
  dsimp only
  split
  · exact hs
  · split
    · exact tapAgrees_by_selects _ _ _ hreset rfl
    · simp [hreset]

/-! ### The boundary is sound after every move -/

theorem boundarySound_reset {t : State} (hreset : t.inReset = true) (htap : t.tap = LinkTap.reset)
    (hsp : t.sp.frame = .reset) : BoundarySound t := by
  rw [boundarySound_iff, htap, hsp, hreset]
  simp [LinkTap.reset]

/-- R3, R13, R157, R177: the end of the last reset. -/
theorem leaveReset_boundarySound {cause : ResetCause} {s t : State} (hs : BoundarySound s) (hin : s.inReset = true)
    (hout : t.inReset = false) (htap : t.tap = s.tap) : BoundarySound (leaveReset cause t) := by
  have hdecode : t.tap.decodeEnable = true := by
    obtain ⟨_, _, hd, _⟩ := hs
    rw [htap]
    exact hd hin
  have hreset : (leaveReset cause t).inReset = false := hout
  rw [boundarySound_iff, hreset]
  refine ⟨tapAgrees_by_selects _ _ _ rfl hdecode, ?_⟩
  simp only [leaveReset_sp, leaveReset_sSel]
  cases t.sSel <;> simp [PortAgrees]

theorem inFrame_tapAgrees {s : State} {ctx : FrameContext} (hb : s.tap.boundary = .inFrame ctx)
    (hs : TapAgrees s.tap.boundary s.tap.decodeEnable s.inReset s.hSel) :
    s.inReset = false ∧ s.tap.decodeEnable = true ∧ s.hSel ≠ 0 := by
  rw [hb] at hs
  simpa using hs

theorem command_isOpen {f : PortFrame} {b : List Byte} (h : f = .command b) : f.isOpen := by rw [h]; trivial

theorem reply_isOpen {f : PortFrame} (h : f = .reply) : f.isOpen := by rw [h]; trivial

/-- R156, R157: an edge of S_CLK leaves an open frame open, and one that is not as it was. -/
theorem rising_portAgrees {d : Bool} {sp t : ServicePort} (h : sp.rising d = some t) {reset select : Bool}
    (hs : PortAgrees sp.frame reset select) : PortAgrees t.frame reset select := by
  rcases rising_cases h with ⟨_, _, rfl⟩ | ⟨b, c, hf, _, rfl⟩ | ⟨_, _, rfl⟩ | ⟨_, _, _, rfl⟩ | ⟨_, _, _, _, rfl⟩ |
    ⟨_, _, rfl⟩
  case inr.inl => exact hs.reopened (command_isOpen hf) trivial
  all_goals exact hs

theorem falling_frame (sp : ServicePort) : sp.falling.frame = sp.frame := by
  obtain ⟨v, h⟩ := falling_eq sp
  rw [h]

theorem tick_tapAgrees {tap : LinkTap} {reset : Bool} {selects : BitVec 4}
    (h : TapAgrees tap.boundary tap.decodeEnable reset selects) :
    TapAgrees tap.tick.boundary tap.tick.decodeEnable reset selects := by
  unfold LinkTap.tick
  split
  · next ctx hb => simpa [hb] using h
  · exact h

/-- The selects, the resets, LINK CONTROL and S_SEL move the boundary and the frame state with them (R3, R7, R13,
R157). -/
theorem boundarySound_moves : Moves BoundarySound := by
  constructor
  case powerOn => intros; exact boundarySound_reset (by simp [State.inReset]) rfl rfl
  case powerLoss => intros; exact boundarySound_reset (by simp [State.inReset]) rfl rfl
  case pinFalls => intros; exact boundarySound_reset (by simp [State.inReset]) rfl rfl
  case porEnds =>
    intro s hs hp ha hr
    exact boundarySound_of_eq (s := s) (by simp [State.inReset, hr]) rfl rfl rfl rfl rfl hs
  case porLeaves =>
    intro s hs hp ha hr
    exact leaveReset_boundarySound hs (by simp [State.inReset, ha]) (by simp [State.inReset, hp, hr]) rfl
  case pinFallsUnpowered =>
    intro s hs hp hr
    exact boundarySound_of_eq (s := s) (by simp [State.inReset, hp]) rfl rfl rfl rfl rfl hs
  case pinRises =>
    intro s hs h hr
    refine boundarySound_of_eq (s := s) ?_ rfl rfl rfl rfl rfl hs
    obtain hp | ha := h
    · simp [State.inReset, hp]
    · simp [State.inReset, ha]
  case pinLeaves =>
    intro s hs hp ha hr
    exact leaveReset_boundarySound hs (by simp [State.inReset, hr]) (by simp [State.inReset, hp, ha]) rfl
  case selectRises =>
    intro s n hs _ hidle
    refine boundarySound_of_tap (s := s) rfl rfl rfl hs fun ⟨hr, ho, hd, hi, _, _⟩ => ?_
    exact ⟨hr, ho, hd, fun h => absurd (hi h) (hidle h), fun _ => or_selectBit_ne_zero _ _,
      fun _ _ => or_selectBit_ne_zero _ _⟩
  case frameBegins =>
    intro s n hs _ hb
    refine (reportViolation_quiet n _).boundarySound ?_
    refine boundarySound_of_tap (s := s) rfl rfl rfl hs fun h => ?_
    rw [hb, tapAgrees_idle] at h
    simpa [h] using or_selectBit_ne_zero s.hSel n
  case collides =>
    intro s n ctx hs _ hb
    refine boundarySound_of_tap (s := s) rfl rfl rfl hs fun h => ?_
    obtain ⟨hr, hd, _⟩ := inFrame_tapAgrees hb h
    simpa [hr, hd] using or_selectBit_ne_zero s.hSel n
  case selectFalls =>
    intro s n hs _ hlast
    refine boundarySound_of_tap (s := s) rfl rfl rfl hs fun ⟨hr, ho, hd, hi, _, _⟩ => ?_
    refine ⟨hr, ho, hd, fun h => ?_, fun h h0 => (hlast h0).1 h, fun ctx h h0 => (hlast h0).2 ctx h⟩
    rw [hi h]
    exact BitVec.zero_and
  case frameEnds =>
    intro s n ctx hs h0 hb
    refine (settle_quiet _ _).boundarySound ?_
    obtain ⟨htap, hreset, hsel, hssel, hframe⟩ := endFrame_boundary ctx { s with hSel := s.hSel &&& ~~~ selectBit n }
    refine boundarySound_of_tap (s := s) hreset hframe hssel hs fun h => ?_
    obtain ⟨hr, hd, _⟩ := inFrame_tapAgrees hb h
    rw [htap, hsel]
    exact (tapAgrees_idle _ _ _).mpr ⟨hr, hd, h0⟩
  case skipEnds =>
    intro s n hs h0 hb
    refine boundarySound_of_tap (s := s) rfl rfl rfl hs fun h => ?_
    rw [hb, tapAgrees_skipping] at h
    simp [h, h0]
  case pulse =>
    intro s k ctx hs hb
    refine (settle_quiet _ _).boundarySound ?_
    obtain ⟨c, htap, hreset, hsel, hssel, hframe⟩ := takePulse_boundary k.lanes ctx (drivePins k s)
    refine boundarySound_of_tap (s := s) hreset hframe hssel hs fun h => ?_
    rw [htap, hsel]
    simpa using inFrame_tapAgrees hb h
  case tick =>
    intro s hs _
    exact boundarySound_of_tap (s := s) rfl rfl rfl hs tick_tapAgrees
  case stageExpires => exact fun s hs _ => (happening_quiet (expireStage_quiet s)).boundarySound hs
  case holdExpires => exact fun s e hs _ => (happening_quiet (expireHold_quiet e s)).boundarySound hs
  case syncEdge => exact fun s hs _ _ => (settle_quiet _ _).boundarySound (takeSyncEdge_boundary s hs)
  case xtEdge => exact fun s hs _ => (happening_quiet (takeHit_quiet 8 s)).boundarySound hs
  case portOpens =>
    intro s hs _ hf
    refine boundarySound_of_port (s := s) rfl rfl rfl hs fun h => ?_
    rw [hf, portAgrees_noFrame] at h
    exact (portAgrees_open (f := .command []) trivial _ _).mpr ⟨h.1, rfl⟩
  case portRises =>
    intro s hs hsel hf
    refine boundarySound_of_port (s := s) rfl rfl rfl hs fun ⟨hr, hn⟩ => ⟨hr, ?_⟩
    have hreset : s.inReset ≠ false := fun h => hf (hn.mpr ⟨h, hsel⟩)
    simp [hf, hreset]
  case portFalls =>
    intro s hs _ hf
    refine boundarySound_of_port (s := s) rfl rfl rfl hs fun h => ?_
    rw [hf, portAgrees_reset] at h
    simp [hf, h]
  case portAbandons =>
    intro s hs _ hf
    refine boundarySound_of_port (s := s) rfl rfl rfl hs fun h => ?_
    exact (portAgrees_noFrame _ _).mpr ⟨((portAgrees_open (reply_isOpen hf) _ _).mp h).1, rfl⟩
  case portCloses =>
    intro s hs _ hf _
    refine boundarySound_of_port (s := s) rfl rfl rfl hs fun ⟨hr, _⟩ => ?_
    have hreset : s.inReset = false := by simpa using fun h => hf (hr.mpr h)
    exact (portAgrees_noFrame _ _).mpr ⟨hreset, rfl⟩
  case collects =>
    intro s b c k hs hf
    exact boundarySound_of_port (s := s) rfl rfl rfl hs fun h => h.reopened (command_isOpen hf) trivial
  case clockRises =>
    intro s k sp hs _ _ hr
    exact boundarySound_of_port (s := s) rfl rfl rfl hs (rising_portAgrees hr)
  case clockFalls =>
    intro s k hs _ _
    exact boundarySound_of_eq (s := s) rfl rfl rfl rfl (falling_frame s.sp) rfl hs
  case replyCompletes =>
    intro s hs hf _
    refine (settle_quiet _ _).boundarySound ?_
    obtain ⟨hreset, htap, hsel, hssel, hframe⟩ := completeReply_boundary s
    refine boundarySound_of_port hreset htap hsel hs fun h => ?_
    rw [hframe, hssel]
    exact h.reopened (reply_isOpen hf) trivial
  case answers =>
    intro s r last b hs hf
    exact boundarySound_of_port (s := s) rfl rfl rfl hs fun h => h.reopened (command_isOpen hf) trivial
  case linkControl =>
    intro s d i l hs _ ⟨b, hf⟩
    refine boundarySound_of_tap (s := s) (by simp [State.inReset]) (by simp) (by simp) hs fun h => ?_
    rw [applyLinkControl_hSel]
    have hreset : s.inReset = false := by
      obtain ⟨_, hport⟩ := (boundarySound_iff s).mp hs
      exact ((portAgrees_open (command_isOpen hf) _ _).mp hport).1
    exact applyLinkControl_tapAgrees d i l hreset h
  case forces => exact fun s hs _ => (happening_quiet (declareTrigger_quiet .forced s)).boundarySound hs
  case arms =>
    intro s o k hs _ _
    refine (settle_quiet _ _).boundarySound ?_
    exact boundarySound_of_eq (s := s) (by simp [State.inReset]) (by simp) (by simp) (by simp) (by simp) (by simp) hs
  case stops => exact fun s hs _ => (happening_quiet (completeSession_quiet .stopped s)).boundarySound hs
  case clears => exact fun s hs _ => (happening_quiet (emptyTrace_quiet s)).boundarySound hs
  case skips => exact fun s k hs _ => (happening_quiet (skipRecords_quiet k s)).boundarySound hs
  case rewinds => exact fun s m hs _ => (happening_quiet (rewindTo_quiet m s)).boundarySound hs
  case releases => exact fun s m hs _ => (happening_quiet (releaseMark_quiet s)).boundarySound hs
  case syncs =>
    exact fun s hs _ => boundarySound_of_eq (s := s) (by simp [State.inReset]) (by simp) (by simp) (by simp) (by simp)
      (by simp) hs
  all_goals intros; assumption

end Sys2Proof.Machine
end

section
/-! The place the port holds in its frame, at every step (R156, R161, R163, R193). -/

namespace Sys2Proof.Machine
open Sys2Proof

/-- What a port that is neither in COMMAND nor in REPLY holds of a frame: nothing (R156, R157). -/
structure Vacant (sp : ServicePort) : Prop where
  bits : sp.bits = []
  reply : sp.reply = none
  byteAt : sp.byteAt = none
  pendingSent : sp.pendingSent = 0

theorem PlaceSound.vacant {s : State} (h : PlaceSound s) (hr : s.sp.frame ≠ .reply)
    (hc : ∀ b, s.sp.frame ≠ .command b) : Vacant s.sp := by
  obtain ⟨_, hbits, _, hreply, hbyte, _, hsent, _⟩ := h
  constructor
  · by_contra hne
    obtain h | ⟨b, h⟩ := hbits hne
    · exact hr h
    · exact hc b h
  · by_contra hne
    exact hr (hreply.mpr hne)
  · cases hb : s.sp.byteAt with
    | none => rfl
    | some k => exact absurd (hbyte k hb).1 hr
  · exact hsent hr

theorem placeSound_vacant {t : State} (h : Vacant t.sp) (hr : t.sp.frame ≠ .reply)
    (hc : ∀ b, t.sp.frame ≠ .command b) : PlaceSound t := by
  refine ⟨?_, ?_, ?_, ?_, ?_, ?_, ?_, ?_⟩
  · rw [h.bits]; exact Nat.zero_lt_succ 7
  · exact fun hb => absurd h.bits hb
  · exact fun b hf => absurd hf (hc b)
  · simp [hr, h.reply]
  · simp [h.byteAt]
  · rw [h.pendingSent]; exact Nat.zero_le _
  · exact fun _ => h.pendingSent
  · rw [h.pendingSent]; simp

/-- In COMMAND the port holds the bits of the byte in progress and drives 0xFF (R156). -/
theorem placeSound_command {t : State} {b : List Byte} (hf : t.sp.frame = .command b) (hbits : t.sp.bits.length < 8)
    (hout : t.sp.out = true) (hreply : t.sp.reply = none) (hbyte : t.sp.byteAt = none)
    (hsent : t.sp.pendingSent = 0) : PlaceSound t := by
  refine ⟨hbits, fun _ => .inr ⟨b, hf⟩, fun _ _ => hout, ?_, ?_, ?_, fun _ => hsent, ?_⟩
  · simp [hf, hreply]
  · simp [hbyte]
  · rw [hsent]; exact Nat.zero_le _
  · rw [hsent]; simp

/-- What a port in COMMAND holds beside its bits. -/
theorem PlaceSound.command {s : State} {b : List Byte} (h : PlaceSound s) (hf : s.sp.frame = .command b) :
    s.sp.bits.length < 8 ∧ s.sp.out = true ∧ s.sp.reply = none ∧ s.sp.byteAt = none ∧ s.sp.pendingSent = 0 := by
  obtain ⟨hlen, _, hout, hreply, hbyte, _, hsent, _⟩ := h
  have hr : s.sp.frame ≠ .reply := by simp [hf]
  refine ⟨hlen, hout b hf, ?_, ?_, hsent hr⟩
  · by_contra hne
    exact hr (hreply.mpr hne)
  · cases hb : s.sp.byteAt with
    | none => rfl
    | some k => exact absurd (hbyte k hb).1 hr

/-- In REPLY a reply is in the buffer, at most 16 pending bytes have gone, and a byte of the reply is in progress only of
a ready one (R161, R193). -/
theorem placeSound_reply {t : State} (hf : t.sp.frame = .reply) (hbits : t.sp.bits.length < 8)
    (hreply : t.sp.reply ≠ none) (hbyte : ∀ k, t.sp.byteAt = some k → t.sp.ready = true ∧ k < t.sp.replyBytes.length)
    (hsent : t.sp.pendingSent ≤ 16)
    (hlast : t.sp.pendingSent = 16 → t.sp.ready = true ∧ (t.sp.byteAt = none → t.sp.bits = [])) : PlaceSound t :=
  ⟨hbits, fun _ => .inl hf, by simp [hf], by simp [hf, hreply], fun k hk => ⟨hf, hbyte k hk⟩, hsent,
    fun h => absurd hf h, hlast⟩

/-- The place depends on the port's frame, buffer, byte in progress, count and line alone. -/
theorem placeSound_of_eq {s t : State} (hframe : t.sp.frame = s.sp.frame) (hreply : t.sp.reply = s.sp.reply)
    (hready : t.sp.ready = s.sp.ready) (hbits : t.sp.bits = s.sp.bits) (hbyte : t.sp.byteAt = s.sp.byteAt)
    (hsent : t.sp.pendingSent = s.sp.pendingSent) (hout : t.sp.out = s.sp.out) (hs : PlaceSound s) : PlaceSound t := by
  rw [PlaceSound, ServicePort.replyBytes, hframe, hreply, hready, hbits, hbyte, hsent, hout]
  exact hs

theorem Quiet.placeSound {s t : State} (h : Quiet s t) (hs : PlaceSound s) : PlaceSound t :=
  placeSound_of_eq h.frame h.reply h.ready h.bits h.byteAt h.pendingSent h.out hs

theorem placeSound_of_sp {s t : State} (h : t.sp = s.sp) (hs : PlaceSound s) : PlaceSound t := by
  refine placeSound_of_eq ?_ ?_ ?_ ?_ ?_ ?_ ?_ hs <;> rw [h]

/-! ### The happenings leave the place -/

theorem evaluate_placeSound (point : Slot → SlotProgress → SlotProgress × Bool) {s : State} (hs : PlaceSound s) :
    PlaceSound (evaluate point s) := by
  obtain h | ⟨e, _, hq⟩ := evaluate_spec point s
  · rw [h]; exact hs
  · exact hq.placeSound hs

theorem takePulse_placeSound (l : LinkLanes) (ctx : FrameContext) {s : State} (hs : PlaceSound s) :
    PlaceSound (takePulse l ctx s) :=
  takePulse_keeps (fun _ _ => hs) fun point _ => evaluate_placeSound point

theorem endFrame_placeSound (ctx : FrameContext) {s : State} (hs : PlaceSound s) : PlaceSound (endFrame ctx s) := by
  obtain ⟨m, e, hm, he, h⟩ := endFrame_eq ctx s
  have hmatched : PlaceSound m := hm ▸ matchFrameEnd_keeps hs fun point _ => evaluate_placeSound point
  have hclosed : PlaceSound { m with mu := { m.mu with eval := none } } := placeSound_of_sp (s := m) rfl hmatched
  have hended : PlaceSound e := he ▸ (captureFrameEnd_quiet _ _ _).placeSound hclosed
  rw [h]
  exact placeSound_of_sp (s := e) rfl hended

theorem takeSyncEdge_placeSound {s : State} (hs : PlaceSound s) : PlaceSound (takeSyncEdge s) := by
  have hz : PlaceSound (raiseEvent (.syncSeen (s.tb.time.setWidth 32)) (zeroTime s)) :=
    (raiseEvent_quiet _ _).placeSound (placeSound_of_sp (s := s) rfl hs)
  obtain ⟨t, rfl, h | ⟨_, h⟩⟩ := takeSyncEdge_cases s
  · rw [h]; exact hz
  · rw [h]; exact placeSound_of_sp rfl hz

/-! ### The edges of S_CLK -/

/-- A reply sends a marker, a status and a length before its payload (R161). -/
theorem replyBytes_pos {sp : ServicePort} (h : sp.reply ≠ none) : 0 < sp.replyBytes.length := by
  obtain ⟨r, hr⟩ := Option.ne_none_iff_exists'.mp h
  simp [ServicePort.replyBytes, hr, Reply.bytes]

/-- R156, R161, R193: the eighth bit completes a byte, the pending ones up to the 16th. -/
theorem rising_placeSound {d : Bool} {s : State} {k : ServiceLine} {sp : ServicePort} (hs : PlaceSound s)
    (h : s.sp.rising d = some sp) : PlaceSound { s with sLine := k, sp := sp } := by
  obtain ⟨hlen, _, _, hreply, hbyte, hsent, _, hlast⟩ := id hs
  rcases rising_cases h with ⟨⟨b, hf⟩, hlt, rfl⟩ | ⟨b, c, hf, _, rfl⟩ | ⟨hf, hlt, rfl⟩ | ⟨hf, hge, hnone, rfl⟩ |
    ⟨j, hf, hbegun, hj, rfl⟩ | ⟨hf, hc, rfl⟩
  case inl =>
    obtain ⟨_, hout, hnone, hat, hzero⟩ := hs.command hf
    exact placeSound_command hf (by simp; omega) hout hnone hat hzero
  case inr.inl =>
    obtain ⟨_, hout, hnone, hat, hzero⟩ := hs.command hf
    exact placeSound_command (b := c) rfl (by simp) hout hnone hat hzero
  case inr.inr.inl =>
    have hbuf := hreply.mp hf
    refine placeSound_reply hf (by simp; omega) hbuf (fun i hi => ?_) hsent fun h16 => ?_
    · obtain hb | ⟨hb, _, _, hready⟩ := byteBegun_cases s.sp
      · exact (hbyte i (hb ▸ hi)).2
      · rw [hb] at hi
        cases hi
        exact ⟨hready, replyBytes_pos hbuf⟩
    · obtain ⟨hready, hfirst⟩ := hlast h16
      refine ⟨hready, fun hnone => ?_⟩
      obtain hb | ⟨hb, _, _, _⟩ := byteBegun_cases s.sp
      · have hat : s.sp.byteAt = none := hb ▸ hnone
        simp [ServicePort.byteBegun, hfirst hat, hat, hready] at hnone
      · rw [hb] at hnone
        cases hnone
  case inr.inr.inr.inl =>
    have hat : s.sp.byteAt = none := by
      obtain hb | ⟨hb, _, _, _⟩ := byteBegun_cases s.sp
      · rw [← hb, hnone]
      · rw [hb] at hnone; cases hnone
    have hbelow : s.sp.pendingSent ≠ 16 := by
      intro h16
      have hempty := (hlast h16).2 hat
      rw [hempty] at hge
      simp at hge
    refine placeSound_reply (by simpa using hf) (by simp) (by simpa using hreply.mp hf) ?_ ?_ fun h16 => ?_
    · simp [hat]
    · simp; omega
    · simp at h16
      simp [h16]
  case inr.inr.inr.inr.inl =>
    have hbuf := hreply.mp hf
    have hready : s.sp.ready = true := by
      obtain hb | ⟨_, _, _, hready⟩ := byteBegun_cases s.sp
      · exact (hbyte j (hb ▸ hbegun)).2.1
      · exact hready
    refine placeSound_reply hf (by simp) hbuf (fun i hi => ?_) hsent fun _ => ⟨hready, fun _ => rfl⟩
    cases hi
    exact ⟨hready, hj⟩
  case inr.inr.inr.inr.inr => exact placeSound_of_sp (s := s) rfl hs

/-- R156: in COMMAND every bit the part drives is one of 0xFF. -/
theorem outByte_of_ones {sp : ServicePort} (hf : sp.frame ≠ .reply) (n : Nat) :
    sp.outByte.getLsbD (7 - n) = true := by
  have hones : sp.outByte = 0xFF := by
    unfold ServicePort.outByte
    split
    · next h => exact absurd h hf
    · rfl
  have hbit : ∀ i : Fin 8, (0xFF : Byte).getLsbD i.val = true := by decide
  rw [hones]
  exact hbit ⟨7 - n, by omega⟩

theorem falling_placeSound {s : State} {k : ServiceLine} (hs : PlaceSound s) :
    PlaceSound { s with sLine := k, sp := s.sp.falling } := by
  obtain ⟨v, hv⟩ := falling_eq s.sp
  obtain ⟨hlen, hbits, _, hreply, hbyte, hsent, hzero, hlast⟩ := hs
  refine ⟨?_, ?_, fun b hf => ?_, ?_, ?_, ?_, ?_, ?_⟩
  case refine_3 =>
    have hf' : s.sp.frame = .command b := by rw [← falling_frame]; exact hf
    have hout : s.sp.falling = { s.sp with out := s.sp.outByte.getLsbD (7 - s.sp.bits.length) } := by
      simp [ServicePort.falling, hf']
    simp only [hout]
    exact outByte_of_ones (by simp [hf']) _
  all_goals simp only [hv]; assumption

/-! ### The place is kept by every move -/

/-- The place with what the boundary says of it: in reset the frame state is RESET (R176). -/
def PlaceHeld (s : State) : Prop := PlaceSound s ∧ (s.inReset = true → s.sp.frame = .reset)

theorem placeHeld_of_boundary {s : State} (hb : BoundarySound s) (hs : PlaceSound s) : PlaceHeld s := by
  obtain ⟨_, _, _, _, _, _, hreset, _⟩ := hb
  exact ⟨hs, hreset.mpr⟩

theorem Quiet.placeHeld {s t : State} (h : Quiet s t) (hs : PlaceHeld s) : PlaceHeld t :=
  ⟨h.placeSound hs.1, fun hr => h.frame.trans (hs.2 (h.inReset ▸ hr))⟩

theorem PlaceHeld.moved {s t : State} (hs : PlaceHeld s) (hreset : t.inReset = s.inReset)
    (hframe : t.sp.frame = s.sp.frame) (hplace : PlaceSound t) : PlaceHeld t :=
  ⟨hplace, fun hr => hframe.trans (hs.2 (hreset ▸ hr))⟩

/-- Out of RESET the frame state moves freely. -/
theorem PlaceHeld.reframed {s t : State} (hs : PlaceHeld s) (hf : s.sp.frame ≠ .reset) (hreset : t.inReset = s.inReset)
    (hplace : PlaceSound t) : PlaceHeld t :=
  ⟨hplace, fun hr => absurd (hs.2 (hreset ▸ hr)) hf⟩

theorem reset_vacant : Vacant ServicePort.reset := ⟨rfl, rfl, rfl, rfl⟩

theorem placeHeld_reset {t : State} (hsp : t.sp = ServicePort.reset) : PlaceHeld t :=
  ⟨placeSound_vacant (hsp ▸ reset_vacant) (by simp [hsp, ServicePort.reset]) (by simp [hsp, ServicePort.reset]),
    fun _ => by rw [hsp]; rfl⟩

/-- R157, R177: a port that leaves RESET holds nothing of a frame. -/
theorem leaveReset_placeHeld {cause : ResetCause} {s t : State} (hs : PlaceHeld s) (hin : s.inReset = true)
    (hout : t.inReset = false) (hsp : t.sp = s.sp) : PlaceHeld (leaveReset cause t) := by
  have hf := hs.2 hin
  have hv : Vacant s.sp := hs.1.vacant (by simp [hf]) (by simp [hf])
  have hreset : (leaveReset cause t).inReset = false := hout
  refine ⟨placeSound_vacant ?_ ?_ ?_, fun hr => absurd hr (by simp [hreset])⟩
  · exact ⟨by simp [hsp, hv.bits], by simp [hsp, hv.reply], by simp [hsp, hv.byteAt], by simp [hsp, hv.pendingSent]⟩
  · simp only [leaveReset_sp]
    split <;> simp
  · simp only [leaveReset_sp]
    split <;> simp

/-- S_SEL opens and closes the place, a taken command turns it to its reply, the clock moves it on (R156 to R163). -/
theorem placeHeld_moves : Moves PlaceHeld := by
  constructor
  case powerOn | powerLoss | pinFalls => intros; exact placeHeld_reset rfl
  case porEnds => exact fun s hs _ ha _ => ⟨hs.1, fun _ => hs.2 (by simp [State.inReset, ha])⟩
  case porLeaves =>
    intro s hs hp ha hr
    exact leaveReset_placeHeld hs (by simp [State.inReset, ha]) (by simp [State.inReset, hp, hr]) rfl
  case pinFallsUnpowered => exact fun s hs hp _ => ⟨hs.1, fun _ => hs.2 (by simp [State.inReset, hp])⟩
  case pinRises => exact fun s hs _ hr => ⟨hs.1, fun _ => hs.2 (by simp [State.inReset, hr])⟩
  case pinLeaves =>
    intro s hs hp ha hr
    exact leaveReset_placeHeld hs (by simp [State.inReset, hr]) (by simp [State.inReset, hp, ha]) rfl
  case frameBegins => exact fun s n hs _ _ => (reportViolation_quiet n _).placeHeld hs
  case frameEnds =>
    intro s n ctx hs _ _
    obtain ⟨_, hreset, _, _, hframe⟩ := endFrame_boundary ctx { s with hSel := s.hSel &&& ~~~ selectBit n }
    exact (settle_quiet _ _).placeHeld (hs.moved hreset hframe (endFrame_placeSound ctx hs.1))
  case pulse =>
    intro s k ctx hs _
    obtain ⟨_, _, hreset, _, _, hframe⟩ := takePulse_boundary k.lanes ctx (drivePins k s)
    exact (settle_quiet _ _).placeHeld (hs.moved hreset hframe (takePulse_placeSound k.lanes ctx hs.1))
  case stageExpires => exact fun s hs _ => (happening_quiet (expireStage_quiet s)).placeHeld hs
  case holdExpires => exact fun s e hs _ => (happening_quiet (expireHold_quiet e s)).placeHeld hs
  case syncEdge =>
    intro s hs _ _
    refine (settle_quiet _ _).placeHeld (hs.moved ?_ ?_ (takeSyncEdge_placeSound hs.1)) <;>
      obtain ⟨t, rfl, h | ⟨_, h⟩⟩ := takeSyncEdge_cases s <;> simp [h, State.inReset]
  case xtEdge => exact fun s hs _ => (happening_quiet (takeHit_quiet 8 s)).placeHeld hs
  case portOpens =>
    intro s hs _ hf
    have hv : Vacant s.sp := hs.1.vacant (by simp [hf]) (by simp [hf])
    exact hs.reframed (by simp [hf]) rfl
      (placeSound_command (b := []) rfl (Nat.zero_lt_succ 7) rfl hv.reply rfl hv.pendingSent)
  case portAbandons =>
    intro s hs _ hf
    exact hs.reframed (by simp [hf]) rfl (placeSound_vacant ⟨rfl, rfl, rfl, rfl⟩ nofun nofun)
  case portCloses =>
    intro s hs _ hf hne
    have hreply : s.sp.reply = none := by
      obtain ⟨_, _, _, hreply, _⟩ := hs.1
      by_contra h
      exact hne (hreply.mpr h)
    exact hs.reframed hf rfl (placeSound_vacant ⟨rfl, hreply, rfl, rfl⟩ nofun nofun)
  case collects =>
    intro s b c k hs hf
    obtain ⟨_, hout, hreply, hbyte, hsent⟩ := hs.1.command hf
    exact hs.reframed (by simp [hf]) rfl
      (placeSound_command (b := c) rfl (Nat.zero_lt_succ 7) hout hreply hbyte hsent)
  case clockRises =>
    intro s k sp hs _ _ hr
    refine ⟨rising_placeSound hs.1 hr, fun hreset => ?_⟩
    have hf := hs.2 hreset
    simp only [ServicePort.rising, hf, Option.some.injEq] at hr
    exact hr ▸ hf
  case clockFalls =>
    intro s k hs _ _
    exact hs.moved rfl (falling_frame s.sp) (falling_placeSound hs.1)
  case ready =>
    intro s hs hf
    obtain ⟨hlen, _, _, hreply, hbyte, hsent, _, hlast⟩ := hs.1
    exact hs.moved rfl rfl (placeSound_reply hf hlen (hreply.mp hf) (fun k hk => ⟨rfl, (hbyte k hk).2.2⟩) hsent
      fun h => ⟨rfl, (hlast h).2⟩)
  case replyCompletes =>
    intro s hs hf _
    obtain ⟨hreset, _, _, _, hframe⟩ := completeReply_boundary s
    refine (settle_quiet _ _).placeHeld (hs.reframed (by simp [hf]) hreset ?_)
    exact placeSound_vacant ⟨rfl, rfl, rfl, rfl⟩ (by simp [hframe]) (by simp [hframe])
  case answers =>
    intro s r last b hs hf
    refine hs.reframed (by simp [hf]) rfl ?_
    exact placeSound_reply rfl (Nat.zero_lt_succ 7) (by simp) (by simp) (by simp) (by simp)
  case linkControl =>
    intro s d i l hs _ _
    exact hs.moved (by simp [State.inReset]) (by simp) (placeSound_of_sp (by simp) hs.1)
  case forces => exact fun s hs _ => (happening_quiet (declareTrigger_quiet .forced s)).placeHeld hs
  case arms =>
    intro s o k hs _ _
    exact (settle_quiet _ _).placeHeld
      (hs.moved (by simp [State.inReset]) (by simp) (placeSound_of_sp (s := s) (by simp) hs.1))
  case stops => exact fun s hs _ => (happening_quiet (completeSession_quiet .stopped s)).placeHeld hs
  case clears => exact fun s hs _ => (happening_quiet (emptyTrace_quiet s)).placeHeld hs
  case skips => exact fun s k hs _ => (happening_quiet (skipRecords_quiet k s)).placeHeld hs
  case rewinds => exact fun s m hs _ => (happening_quiet (rewindTo_quiet m s)).placeHeld hs
  case releases => exact fun s m hs _ => (happening_quiet (releaseMark_quiet s)).placeHeld hs
  case syncs =>
    exact fun s hs _ => hs.moved (by simp [State.inReset]) (by simp) (placeSound_of_sp (by simp) hs.1)
  all_goals intros; assumption

/-- Settles O9: both are invariants of the list of moves, the place with the boundary's word that the port is in RESET
in reset. -/
theorem stepKeepsBoundarySound : Obligations.StepKeepsBoundarySound :=
  ⟨fun _ _ hs h => boundarySound_moves.step (fun _ _ hs => hs) hs h,
    fun _ _ hb hs h => (placeHeld_moves.step (fun _ _ hs => hs) (placeHeld_of_boundary hb hs) h).1⟩

end Sys2Proof.Machine
end

section
/-! What the commands leave of the link's lines, the configuration and the tally, and what the others do to them: a
session keeps its configuration, the tally only rises, opcode entries keep their positions, the pass-through takes its
lines alone (R1, R18, R82, R179, R183). -/

namespace Sys2Proof.Machine
open Sys2Proof

/-! ### What most commands leave -/

/-- The supply, the link's lines, the configuration, the tally and the waiting commands are as they were. -/
structure Ordinary (s t : State) : Prop where
  powered : t.powered = s.powered
  hSel : t.hSel = s.hSel
  hClk : t.hClk = s.hClk
  lanes : t.lanes = s.lanes
  config : t.config = s.config
  tally : t.tally = s.tally
  pending : t.pending = s.pending

theorem Ordinary.refl (s : State) : Ordinary s s := ⟨rfl, rfl, rfl, rfl, rfl, rfl, rfl⟩

theorem Ordinary.trans {s t u : State} (h : Ordinary s t) (k : Ordinary t u) : Ordinary s u :=
  ⟨k.powered.trans h.powered, k.hSel.trans h.hSel, k.hClk.trans h.hClk, k.lanes.trans h.lanes,
    k.config.trans h.config, k.tally.trans h.tally, k.pending.trans h.pending⟩

theorem Quiet.config {s t : State} (h : Quiet s t) : t.config = s.config := by
  simp only [State.config, h.opTable, h.mu, h.count, h.stages, h.setup, h.tap, h.prescale, h.role, h.syncAtArm,
    h.xtOut, h.xtLen, h.xtIn]

theorem Quiet.ordinary {s t : State} (h : Quiet s t) : Ordinary s t :=
  ⟨h.powered, h.hSel, h.hClk, h.lanes, h.config, h.tally, h.pending⟩

theorem Ordinary.settled {s t : State} (h : Ordinary s t) (u : State) : Ordinary s (settle u t) :=
  h.trans (settle_quiet u t).ordinary

theorem setReply_ordinary (r : Reply) (b : Byte) (s : State) : Ordinary s (setReply r b s) :=
  ⟨rfl, rfl, rfl, rfl, rfl, rfl, rfl⟩

theorem takeCommand_ordinary {i : Instr} {judge : State → Reply × State} {s : State}
    (h : Ordinary s (judge s).2) : Ordinary s (takeCommand i judge s) := by
  unfold takeCommand
  split
  · exact h.trans (setReply_ordinary _ _ _)
  · exact .refl s

theorem evaluate_ordinary (point : Slot → SlotProgress → SlotProgress × Bool) (s : State) :
    Ordinary s (evaluate point s) := by
  obtain h | ⟨e, _, hq⟩ := evaluate_spec point s
  · rw [h]; exact .refl s
  · exact Ordinary.trans (t := { s with mu := { s.mu with eval := some (e.after point) } })
      ⟨rfl, rfl, rfl, rfl, rfl, rfl, rfl⟩ hq.ordinary

theorem takePulse_ordinary (l : LinkLanes) (ctx : FrameContext) (s : State) : Ordinary s (takePulse l ctx s) :=
  takePulse_keeps (P := Ordinary s) (fun _ _ => ⟨rfl, rfl, rfl, rfl, rfl, rfl, rfl⟩) fun point t h =>
    h.trans (evaluate_ordinary point t)

theorem beginFrame_ordinary (n : Fin 4) (s : State) : Ordinary s (beginFrame n s) := by
  have hsetup : s.cc.takeFrameStart.setup = s.cc.setup := takeFrameStart_setup s.cc
  refine Ordinary.trans ?_ (reportViolation_quiet n _).ordinary
  refine ⟨rfl, rfl, rfl, rfl, ?_, rfl, rfl⟩
  simp only [State.config, hsetup]
  rfl

theorem takeSyncEdge_ordinary (s : State) : Ordinary s (takeSyncEdge s) := by
  have hz : Ordinary s (raiseEvent (.syncSeen (s.tb.time.setWidth 32)) (zeroTime s)) :=
    Ordinary.trans (t := zeroTime s) ⟨rfl, rfl, rfl, rfl, rfl, rfl, rfl⟩ (raiseEvent_quiet _ _).ordinary
  obtain ⟨t, rfl, h | ⟨_, h⟩⟩ := takeSyncEdge_cases s
  · rw [h]; exact hz
  · rw [h]; exact hz.trans ⟨rfl, rfl, rfl, rfl, rfl, rfl, rfl⟩

theorem emitSync_ordinary (s : State) : Ordinary s (emitSync s) := by
  unfold emitSync
  split
  · exact .refl s
  · exact ⟨rfl, rfl, rfl, rfl, rfl, rfl, rfl⟩

theorem startSession_ordinary (s : State) : Ordinary s (startSession s) := ⟨rfl, rfl, rfl, rfl, rfl, rfl, rfl⟩

theorem prepareSession_ordinary (keep : Bool) (s : State) : Ordinary s (prepareSession keep s) := by
  cases keep <;> exact ⟨rfl, rfl, rfl, rfl, rfl, rfl, rfl⟩

theorem beginSession_ordinary (onSync : Bool) (s : State) : Ordinary s (beginSession onSync s) := by
  obtain h | h | h := beginSession_cases onSync s <;> rw [h]
  · exact ⟨rfl, rfl, rfl, rfl, rfl, rfl, rfl⟩
  · exact startSession_ordinary s
  · exact (startSession_ordinary s).trans (emitSync_ordinary _)

theorem completeReply_ordinary (s : State) : Ordinary s (completeReply s) := by
  have ht : Ordinary s (consumeRecord s) := by
    obtain h | ⟨_, _, _, rfl, h⟩ := consumeRecord_cases s <;> (rw [h]; exact ⟨rfl, rfl, rfl, rfl, rfl, rfl, rfl⟩)
  exact ht.trans ⟨rfl, rfl, rfl, rfl, rfl, rfl, rfl⟩

theorem takeServiceEdge_ordinary (k : ServiceLine) (s : State) : Ordinary s (takeServiceEdge k s) := by
  unfold takeServiceEdge
  split
  · split
    · exact ⟨rfl, rfl, rfl, rfl, rfl, rfl, rfl⟩
    · exact .refl s
  · split <;> exact ⟨rfl, rfl, rfl, rfl, rfl, rfl, rfl⟩

theorem tick_ordinary (s : State) : Ordinary s
    { s with
      tap := s.tap.tick, seq := s.seq.tick
      tm := { s.tm with episode := s.tm.episode.map (Episode.tick s.cc.setup.holdLimit) }
      tb := s.tb.tick } := by
  have htap : s.tap.tick.decodeEnable = s.tap.decodeEnable ∧ s.tap.tick.idleLevel = s.tap.idleLevel ∧
      s.tap.tick.opcodeLanes = s.tap.opcodeLanes := by
    unfold LinkTap.tick
    split <;> exact ⟨rfl, rfl, rfl⟩
  refine ⟨rfl, rfl, rfl, rfl, ?_, rfl, rfl⟩
  simp only [State.config, htap]
  rfl

/-- The commands that leave the supply, the link's lines, the configuration and the tally. -/
def ordinary : Instr → Bool
  | .powerOn | .resetNAsserted | .powerLoss | .selectAsserted _ | .selectNegated _ | .samplingEdge _
  | .opcodeComplete _ | .addressComplete _ | .waitDone _ | .dataByteComplete _ | .trailPulse _ | .opaquePulse _
  | .linkControl _ _ _ | .putOpcodeEntry _ | .dropOpcodeEntry _ | .putSlot _ | .putStage _ | .putSequence _
  | .putCaptureSetup _ | .setTimebase _ | .tallyControl _ | .tallySnapshot _ => false
  | _ => true

/-- The commands that act on nothing of the lines, the configuration and the tally leave them (R1, R82, R179). -/
theorem exec_ordinary {i : Instr} {s t : State} (hi : ordinary i = true) (h : exec i s = .next t) : Ordinary s t := by
  cases i <;> cases hi <;> cases h
  case powerOnResetEnd =>
    split
    · dsimp only
      split <;> exact ⟨rfl, rfl, rfl, rfl, rfl, rfl, rfl⟩
    · exact .refl s
  case resetNReleased =>
    split
    · dsimp only
      split <;> exact ⟨rfl, rfl, rfl, rfl, rfl, rfl, rfl⟩
    · exact .refl s
  case timebaseTick =>
    split
    · exact .refl s
    · exact tick_ordinary s
  case stageTimeout =>
    split
    · exact (happening_quiet (expireStage_quiet s)).ordinary
    · exact .refl s
  case holdExpired =>
    split
    · exact (happening_quiet (expireHold_quiet _ s)).ordinary
    · exact .refl s
  case syncPulseEnd =>
    split
    · split
      · exact ⟨rfl, rfl, rfl, rfl, rfl, rfl, rfl⟩
      · exact .refl s
    · exact .refl s
  case xtPulseEnd =>
    split
    · split
      · exact ⟨rfl, rfl, rfl, rfl, rfl, rfl, rfl⟩
      · exact .refl s
    · exact .refl s
  case syncEdge =>
    split
    · exact (takeSyncEdge_ordinary s).settled s
    · exact .refl s
  case xtEdge =>
    split
    · exact (happening_quiet (takeHit_quiet 8 s)).ordinary
    · exact .refl s
  case sSelAsserted =>
    split
    · exact .refl s
    · dsimp only
      split <;> exact ⟨rfl, rfl, rfl, rfl, rfl, rfl, rfl⟩
  case sSelNegated =>
    split
    · dsimp only
      split <;> exact ⟨rfl, rfl, rfl, rfl, rfl, rfl, rfl⟩
    · exact .refl s
  case argumentByte input =>
    split
    · exact takeServiceEdge_ordinary _ s
    · split
      · split
        · split
          · exact ⟨rfl, rfl, rfl, rfl, rfl, rfl, rfl⟩
          · exact .refl s
        · exact .refl s
      · exact .refl s
  case unknownCommand code =>
    split
    · exact setReply_ordinary _ _ s
    · exact .refl s
  case replyReady =>
    split
    · exact ⟨rfl, rfl, rfl, rfl, rfl, rfl, rfl⟩
    · exact .refl s
  case replyComplete =>
    split
    · exact (completeReply_ordinary s).settled s
    · exact .refl s
  all_goals refine takeCommand_ordinary ?_
  case nextEvent => unfold judgeNextEvent; split <;> exact ⟨rfl, rfl, rfl, rfl, rfl, rfl, rfl⟩
  case setEventMask => unfold judgeSetEventMask; split <;> exact ⟨rfl, rfl, rfl, rfl, rfl, rfl, rfl⟩
  case forceTrigger =>
    unfold judgeForceTrigger
    split
    · exact (happening_quiet (declareTrigger_quiet .forced s)).ordinary
    · exact .refl s
  case arm =>
    unfold judgeArm
    dsimp only
    split
    · exact ((prepareSession_ordinary _ s).trans (beginSession_ordinary _ _)).settled s
    · exact .refl s
  case stop =>
    unfold judgeStop
    split
    · exact (happening_quiet (completeSession_quiet .stopped s)).ordinary
    · exact .refl s
  case clearTrace =>
    unfold judgeClearTrace
    split
    · exact .refl s
    · exact (happening_quiet (emptyTrace_quiet s)).ordinary
  case readRecord => unfold judgeReadRecord; split <;> exact ⟨rfl, rfl, rfl, rfl, rfl, rfl, rfl⟩
  case peekRecord => unfold judgePeekRecord; split <;> exact .refl s
  case skipRecords =>
    unfold judgeSkipRecords
    split
    · exact .refl s
    · exact (happening_quiet (skipRecords_quiet _ s)).ordinary
  case mark =>
    unfold judgeMark
    split
    · exact .refl s
    · split <;> exact ⟨rfl, rfl, rfl, rfl, rfl, rfl, rfl⟩
  case rewind =>
    unfold judgeRewind
    split
    · exact .refl s
    · exact (happening_quiet (rewindTo_quiet _ s)).ordinary
  case release =>
    unfold judgeRelease
    split
    · exact .refl s
    · exact (happening_quiet (releaseMark_quiet s)).ordinary
  case setWatermark => unfold judgeSetWatermark; split <;> exact ⟨rfl, rfl, rfl, rfl, rfl, rfl, rfl⟩
  case syncNow =>
    unfold judgeSyncNow
    split
    · exact emitSync_ordinary s
    · exact .refl s
  all_goals exact ⟨rfl, rfl, rfl, rfl, rfl, rfl, rfl⟩

end Sys2Proof.Machine
end

section
/-! What the other commands do to the configuration, the opcode table, the tally and the pass-through's lines (R1, R18,
R82, R179, R183). -/

namespace Sys2Proof.Machine
open Sys2Proof

/-! ### A frame's end -/

/-- A frame's end counts the frame in the tally, beside what other commands leave too (R180). -/
theorem endFrame_ordinary (ctx : FrameContext) (s : State) :
    Ordinary { s with tally := s.tally.takeFrame (ctx.closed s.tb.timeReset) } (endFrame ctx s) := by
  obtain ⟨m, e, hm, he, h⟩ := endFrame_eq ctx s
  have hmatched : Ordinary s m := hm ▸ matchFrameEnd_keeps (P := Ordinary s) (.refl s)
    fun point t ht => ht.trans (evaluate_ordinary point t)
  have hclosed : Ordinary s { m with mu := { m.mu with eval := none } } :=
    hmatched.trans ⟨rfl, rfl, rfl, rfl, rfl, rfl, rfl⟩
  have hended : Ordinary s e := he ▸ hclosed.trans (captureFrameEnd_quiet _ _ _).ordinary
  rw [h]
  exact ⟨hended.powered, hended.hSel, hended.hClk, hended.lanes, hended.config,
    congrArg (Tally.takeFrame · (ctx.closed s.tb.timeReset)) hended.tally, hended.pending⟩

/-- For a property that ordinary commands keep, the moves left are the ones on the lines, the configuration and the
tally. -/
theorem moves_of_ordinary {P : State → Prop} (keeps : ∀ s t, P s → Ordinary s t → P t)
    (resets : ∀ s powered por low, P s → P { resetBlocks s with powered := powered, porActive := por, resetLow := low })
    (pin : ∀ s low, P s → P { s with resetLow := low })
    (leaves : ∀ s cause por low, P s → P (leaveReset cause { s with porActive := por, resetLow := low }))
    (selects : ∀ s v, P s → P { s with hSel := v })
    (counts : ∀ s c, P s → P { s with tally := s.tally.takeFrame c })
    (pins : ∀ s k, P s → P (drivePins k s))
    (linkControl : ∀ s d i l, P s → P (applyLinkControl d i l s))
    (entry : ∀ (s : State) (i : Fin 32) e, P s →
      (s.opTable.position e.opcode = some i ∨ s.opTable.position e.opcode = none ∧ s.opTable.freePosition = some i) →
      P { s with opTable := s.opTable.set i (some e) })
    (dropEntry : ∀ (s : State) (i : Fin 32), P s → P { s with opTable := s.opTable.set i none })
    (slots : ∀ s v, P s → P { s with mu := { s.mu with slots := v } })
    (stages : ∀ s v n, P s → P { s with seq := { s.seq with stages := v, count := n } })
    (setup : ∀ s c, P s → P { s with cc := { s.cc with setup := c } })
    (timebase : ∀ s b, P s → P { s with tb := b })
    (tallyEnable : ∀ s on, P s → P { s with tally := { s.tally with enable := on } })
    (snapshot : ∀ s clear, P s → P { s with tally := s.tally.snapshot clear s.tb.time }) : Moves P := by
  have happens : ∀ {f : State → State} {s : State}, P s → Quiet s (happening f s) → P (happening f s) :=
    fun hs hq => keeps _ _ hs hq.ordinary
  constructor
  case powerOn => exact fun s hs => resets s true true s.resetLow hs
  case powerLoss => exact fun s hs => resets s false false s.resetLow hs
  case pinFalls => exact fun s hs _ _ => resets s s.powered s.porActive true hs
  case pinFallsUnpowered => exact fun s hs _ _ => pin s true hs
  case pinRises => exact fun s hs _ _ => pin s false hs
  case porLeaves => exact fun s hs _ _ _ => leaves s .power false s.resetLow hs
  case pinLeaves => exact fun s hs _ _ _ => leaves s .pin s.porActive false hs
  case selectRises => exact fun s n hs _ _ => selects s _ hs
  case frameBegins =>
    exact fun s n hs _ _ => keeps _ _ (selects s (s.hSel ||| selectBit n) hs) (beginFrame_ordinary n _)
  case collides =>
    exact fun s n ctx hs _ _ => keeps _ _ (selects s (s.hSel ||| selectBit n) hs) ⟨rfl, rfl, rfl, rfl, rfl, rfl, rfl⟩
  case selectFalls => exact fun s n hs _ _ => selects s _ hs
  case frameEnds =>
    exact fun s n ctx hs _ _ => keeps _ _ (counts _ (ctx.closed s.tb.timeReset) (selects s _ hs))
      ((endFrame_ordinary ctx { s with hSel := s.hSel &&& ~~~ selectBit n }).settled _)
  case skipEnds => exact fun s n hs _ _ => keeps _ _ (selects s _ hs) ⟨rfl, rfl, rfl, rfl, rfl, rfl, rfl⟩
  case pulse =>
    exact fun s k ctx hs _ => keeps _ _ (pins s k hs) ((takePulse_ordinary k.lanes ctx (drivePins k s)).settled _)
  case edge => exact fun s k hs => pins s k hs
  case tick => exact fun s hs _ => keeps _ _ hs (tick_ordinary s)
  case stageExpires => exact fun s hs _ => happens hs (happening_quiet (expireStage_quiet s))
  case holdExpires => exact fun s e hs _ => happens hs (happening_quiet (expireHold_quiet e s))
  case syncEdge => exact fun s hs _ _ => keeps _ _ hs ((takeSyncEdge_ordinary s).settled s)
  case xtEdge => exact fun s hs _ => happens hs (happening_quiet (takeHit_quiet 8 s))
  case replyCompletes => exact fun s hs _ _ => keeps _ _ hs ((completeReply_ordinary s).settled s)
  case linkControl => exact fun s d i l hs _ _ => linkControl s d i l hs
  case entry => exact fun s i e hs _ h => entry s i e hs h
  case dropEntry => exact fun s i hs _ => dropEntry s i hs
  case slot => exact fun s n f hs _ => slots s _ hs
  case stage => exact fun s n a g hs _ _ => stages s _ s.seq.count hs
  case sequence => exact fun s n hs _ _ _ => stages s s.seq.stages n hs
  case setup => exact fun s a c hs _ _ => setup s c hs
  case forces => exact fun s hs _ => happens hs (happening_quiet (declareTrigger_quiet .forced s))
  case arms =>
    exact fun s o k hs _ _ =>
      keeps _ _ hs (((prepareSession_ordinary k s).trans (beginSession_ordinary o _)).settled s)
  case stops => exact fun s hs _ => happens hs (happening_quiet (completeSession_quiet .stopped s))
  case clears => exact fun s hs _ => happens hs (happening_quiet (emptyTrace_quiet s))
  case skips => exact fun s k hs _ => happens hs (happening_quiet (skipRecords_quiet k s))
  case rewinds => exact fun s m hs _ => happens hs (happening_quiet (rewindTo_quiet m s))
  case releases => exact fun s m hs _ => happens hs (happening_quiet (releaseMark_quiet s))
  case timebase => exact fun s a new hs _ _ => timebase s _ hs
  case syncs => exact fun s hs _ => keeps _ _ hs (emitSync_ordinary s)
  case tallyEnable => exact tallyEnable
  case snapshot => exact snapshot
  all_goals
    intros
    apply keeps
    · assumption
    · exact ⟨rfl, rfl, rfl, rfl, rfl, rfl, rfl⟩

/-! ### The configuration -/

/-- The commands refused LOCKED in an active session (9.3). -/
def configures : Instr → Bool
  | .linkControl _ _ _ | .putOpcodeEntry _ | .dropOpcodeEntry _ | .putSlot _ | .putStage _ | .putSequence _
  | .putCaptureSetup _ | .setTimebase _ => true
  | _ => false

theorem takeNamedPulse_config (row : PulseRow) (l : LinkLanes) (s : State) :
    (takeNamedPulse row l s).config = s.config ∧ (takeNamedPulse row l s).tally = s.tally := by
  unfold takeNamedPulse
  split
  · split
    · next ctx _ _ =>
      have h := (takePulse_ordinary l ctx (drivePins { clock := !ctx.idleLevel, lanes := l } s)).settled
        (drivePins { clock := !ctx.idleLevel, lanes := l } s)
      exact ⟨h.config, h.tally⟩
    · exact ⟨rfl, rfl⟩
  · exact ⟨rfl, rfl⟩

theorem execSamplingEdge_config {link : LinkLevels} {s t : State} (h : execSamplingEdge link s = .next t) :
    t.config = s.config ∧ t.tally = s.tally := by
  cases h
  split
  · split
    · next ctx _ _ =>
      have h := (takePulse_ordinary link.lanes ctx (drivePins link s)).settled (drivePins link s)
      exact ⟨h.config, h.tally⟩
    · exact ⟨rfl, rfl⟩
  · exact ⟨rfl, rfl⟩

theorem execSelectAsserted_config {n : Fin 4} {s t : State} (h : execSelectAsserted n s = .next t) :
    t.config = s.config ∧ t.tally = s.tally := by
  cases h
  split
  · exact ⟨rfl, rfl⟩
  · dsimp only
    split
    · split
      · have h := beginFrame_ordinary n { s with hSel := s.hSel ||| selectBit n }
        exact ⟨h.config, h.tally⟩
      · exact ⟨rfl, rfl⟩
    · split <;> exact ⟨rfl, rfl⟩
    · exact ⟨rfl, rfl⟩

/-- R180: of a select's negation the tally sees at most one delivered frame. -/
theorem execSelectNegated_config {n : Fin 4} {s t : State} (h : execSelectNegated n s = .next t) :
    t.config = s.config ∧ (t.tally = s.tally ∨ ∃ c, t.tally = s.tally.takeFrame c) := by
  cases h
  split
  · dsimp only
    split
    · split
      · next ctx _ =>
        have h := (endFrame_ordinary ctx { s with hSel := s.hSel &&& ~~~ selectBit n }).settled
          { s with hSel := s.hSel &&& ~~~ selectBit n }
        exact ⟨h.config, .inr ⟨_, h.tally⟩⟩
      · exact ⟨rfl, .inl rfl⟩
      · exact ⟨rfl, .inl rfl⟩
    · exact ⟨rfl, .inl rfl⟩
  · exact ⟨rfl, .inl rfl⟩

/-- A command whose judgement keeps the configuration keeps it. -/
theorem takeCommand_config {i : Instr} {judge : State → Reply × State} {s : State}
    (h : (judge s).2.config = s.config) : (takeCommand i judge s).config = s.config := by
  unfold takeCommand
  split
  · exact h
  · rfl

/-- Only the commands refused LOCKED in a session, and the resets from outside, change the configuration (9.3). -/
theorem exec_config {i : Instr} {s t : State} (hr : hardReset i = false)
    (hc : configures i = false ∨ s.sessionActive = true) (h : exec i s = .next t) : t.config = s.config := by
  by_cases ho : ordinary i = true
  · exact (exec_ordinary ho h).config
  cases i
  case powerOn | resetNAsserted | powerLoss => cases hr
  case selectAsserted n => exact (execSelectAsserted_config h).1
  case selectNegated n => exact (execSelectNegated_config h).1
  case samplingEdge link => exact (execSamplingEdge_config h).1
  case opcodeComplete | addressComplete | waitDone | dataByteComplete | trailPulse | opaquePulse =>
    cases h; exact (takeNamedPulse_config _ _ s).1
  case tallyControl => cases h; refine takeCommand_config ?_; unfold judgeTallyControl; split <;> rfl
  case tallySnapshot => cases h; refine takeCommand_config ?_; unfold judgeTallySnapshot; split <;> rfl
  case linkControl | putOpcodeEntry | dropOpcodeEntry | putSlot | putStage | putSequence | putCaptureSetup |
      setTimebase =>
    have ha : s.sessionActive = true := hc.resolve_left (by simp [configures])
    cases h
    refine takeCommand_config ?_
    simp only [judgeLinkControl, judgePutOpcodeEntry, judgeDropOpcodeEntry, judgePutSlot, judgePutStage,
      judgePutSequence, judgePutCaptureSetup, judgeSetTimebase, ha, if_true]
  all_goals exact (ho rfl).elim

/-- Settles O14: every command that could change the configuration is refused LOCKED. -/
theorem sessionKeepsConfiguration : Obligations.SessionKeepsConfiguration :=
  fun _ _ _ ha hr h => exec_config hr (.inr ha) h

/-! ### The opcode table -/

theorem get_set_ite {α : Type} {n : Nat} (v : Vector α n) (i j : Fin n) (x : α) :
    (v.set i x).get j = if i = j then x else v.get j := by
  simp only [Vector.get_eq_getElem, Vector.getElem_set, Fin.ext_iff]

/-- R22: the position found holds an entry with the opcode value. -/
theorem position_some {t : OpcodeTable} {v : Byte} {i : Fin 32} (h : t.position v = some i) :
    ∃ e, t.get i = some e ∧ e.opcode = v := by
  have hi := List.find?_some h
  simp only [beq_iff_eq, Option.map_eq_some_iff] at hi
  exact hi

theorem position_none {t : OpcodeTable} {v : Byte} :
    t.position v = none ↔ ∀ i e, t.get i = some e → e.opcode ≠ v := by
  simp only [OpcodeTable.position, List.find?_eq_none, List.mem_finRange, true_imp_iff, beq_iff_eq,
    Option.map_eq_some_iff, not_exists, not_and]

theorem freePosition_some {t : OpcodeTable} {i : Fin 32} (h : t.freePosition = some i) : t.get i = none := by
  simpa using List.find?_some h

/-- In a table that holds no opcode value twice, the position of a value is the one that holds it (R18). -/
theorem position_of_get {t : OpcodeTable} (hu : OpcodesUnique t) {i : Fin 32} {e : OpcodeEntry}
    (h : t.get i = some e) : t.position e.opcode = some i := by
  cases hp : t.position e.opcode with
  | none => exact absurd rfl (position_none.mp hp i e h)
  | some j =>
    obtain ⟨f, hf, heq⟩ := position_some hp
    rw [hu j i f e hf h heq]

/-- R19: an entry put at the position of its value, or at a free one while no position holds the value, stays unique. -/
theorem set_entry_unique {t : OpcodeTable} (hu : OpcodesUnique t) {i : Fin 32} {e : OpcodeEntry}
    (h : t.position e.opcode = some i ∨ t.position e.opcode = none ∧ t.freePosition = some i) :
    OpcodesUnique (t.set i (some e)) := by
  have hother : ∀ j f, t.get j = some f → f.opcode = e.opcode → j = i := by
    intro j f hj hf
    obtain hp | ⟨hp, _⟩ := h
    · have hpos := position_of_get hu hj
      rw [hf, hp] at hpos
      exact (Option.some.inj hpos).symm
    · exact absurd hf (position_none.mp hp j f hj)
  intro j k f g hj hk hfg
  rw [get_set_ite] at hj hk
  split at hj
  · next hij =>
    cases hj
    split at hk
    · next hik => exact hij.symm.trans hik
    · exact hij.symm.trans (hother k g hk hfg.symm).symm
  · split at hk
    · next hik =>
      cases hk
      exact (hother j f hj hfg).trans hik
    · exact hu j k f g hj hk hfg

theorem set_none_unique {t : OpcodeTable} (hu : OpcodesUnique t) (i : Fin 32) : OpcodesUnique (t.set i none) := by
  intro j k f g hj hk hfg
  rw [get_set_ite] at hj hk
  split at hj
  · cases hj
  · split at hk
    · cases hk
    · exact hu j k f g hj hk hfg

theorem opcodesUnique_empty : OpcodesUnique OpcodeTable.reset := by
  intro i j e f he
  simp [OpcodeTable.reset, Vector.get_eq_getElem] at he

theorem opTable_of_config {s t : State} (h : t.config = s.config) : t.opTable = s.opTable :=
  congrArg Configuration.opTable h

/-- A reset frees every position; PUT and DROP keep the values unique (R18, R19, R21). -/
theorem opcodesUnique_moves : Moves fun s => OpcodesUnique s.opTable := by
  apply moves_of_ordinary
  case keeps => exact fun s t hs h => (opTable_of_config h.config).symm ▸ hs
  case resets => intros; exact opcodesUnique_empty
  case linkControl => exact fun s d i l hs => (applyLinkControl_opTable d i l s).symm ▸ hs
  case entry => exact fun s i e hs h => set_entry_unique hs h
  case dropEntry => exact fun s i hs => set_none_unique hs i
  all_goals intros; assumption

/-- Position `p` of the table holds an entry with the opcode value `v`. -/
def OpcodeAt (p : Fin 32) (v : Byte) (table : OpcodeTable) : Prop :=
  ∃ e, table.get p = some e ∧ e.opcode = v

theorem takeCommand_opcodeAt {i : Instr} {judge : State → Reply × State} {s : State} {p : Fin 32} {v : Byte}
    (hs : OpcodeAt p v s.opTable) (h : OpcodeAt p v (judge s).2.opTable) :
    OpcodeAt p v (takeCommand i judge s).opTable := by
  unfold takeCommand
  split
  · exact h
  · exact hs

/-- R18, R21: of the commands refused in a session, the DROP of its own value alone takes an entry from its
position. -/
theorem configures_keeps_position {i : Instr} {s t : State} {p : Fin 32} {e : OpcodeEntry}
    (hc : configures i = true) (h : exec i s = .next t) (hd : i ≠ .dropOpcodeEntry e.opcode)
    (hp : s.opTable.get p = some e) : OpcodeAt p e.opcode t.opTable := by
  have hsame : OpcodeAt p e.opcode s.opTable := ⟨e, hp, rfl⟩
  cases i <;> cases hc <;> cases h
  all_goals refine takeCommand_opcodeAt hsame ?_
  case linkControl =>
    unfold judgeLinkControl
    split
    · exact hsame
    · split
      · rw [applyLinkControl_opTable]; exact hsame
      · exact hsame
  case putOpcodeEntry =>
    unfold judgePutOpcodeEntry
    split
    · exact hsame
    · split
      · exact hsame
      · next f _ =>
        split
        · next i hi =>
          simp only [OpcodeAt, get_set_ite]
          split
          · next hip =>
            obtain ⟨g, hg, hgf⟩ := position_some hi
            rw [hip, hp] at hg
            cases hg
            exact ⟨f, rfl, hgf.symm⟩
          · exact hsame
        · split
          · next i hi =>
            simp only [OpcodeAt, get_set_ite]
            split
            · next hip =>
              rw [← hip, freePosition_some hi] at hp
              cases hp
            · exact hsame
          · exact hsame
  case dropOpcodeEntry v =>
    unfold judgeDropOpcodeEntry
    split
    · exact hsame
    · split
      · exact hsame
      · next i hi =>
        simp only [OpcodeAt, get_set_ite]
        split
        · next hip =>
          obtain ⟨g, hg, hgv⟩ := position_some hi
          rw [hip, hp] at hg
          cases hg
          exact absurd (by rw [hgv]) hd
        · exact hsame
  case putSlot => unfold judgePutSlot; (repeat' split) <;> exact hsame
  case putStage => unfold judgePutStage; (repeat' split) <;> exact hsame
  case putSequence => unfold judgePutSequence; (repeat' split) <;> exact hsame
  case putCaptureSetup => unfold judgePutCaptureSetup; (repeat' split) <;> exact hsame
  case setTimebase => unfold judgeSetTimebase; (repeat' split) <;> exact hsame

/-- R18, R21: a position that holds an entry holds its opcode value until a DROP of that value or a reset from
outside. -/
theorem exec_keeps_position {i : Instr} {s t : State} {p : Fin 32} {e : OpcodeEntry} (h : exec i s = .next t)
    (hr : hardReset i = false) (hd : i ≠ .dropOpcodeEntry e.opcode) (hp : s.opTable.get p = some e) :
    OpcodeAt p e.opcode t.opTable := by
  cases hc : configures i with
  | false => exact opTable_of_config (exec_config hr (.inl hc) h) ▸ ⟨e, hp, rfl⟩
  | true => exact configures_keeps_position hc h hd hp

/-- Settles O12: uniqueness by the list of moves, positions command by command. -/
theorem stepKeepsOpcodePositions : Obligations.StepKeepsOpcodePositions :=
  ⟨fun _ _ hs h => opcodesUnique_moves.step (fun _ _ hs => hs) hs h,
    fun _ _ _ _ _ _ h hr hd hp => exec_keeps_position h hr hd hp⟩

end Sys2Proof.Machine
end

section
/-! The tally's counters stay in range and only rise; the pass-through takes its own lines alone; every command answers
a next state (R1, R2, R179, R180, R183). -/

namespace Sys2Proof.Machine
open Sys2Proof

/-! ### The tally's counters -/

theorem satAdd_le (max a b : Nat) : satAdd max a b ≤ max := Nat.min_le_left _ _

theorem le_satAdd {max a : Nat} (h : a ≤ max) (b : Nat) : a ≤ satAdd max a b := Nat.le_min.mpr ⟨h, Nat.le_add_right a b⟩

theorem bump_le {n : Nat} (h : n ≤ Config.max32) (flag : Bool) : bump n flag ≤ Config.max32 := by
  cases flag
  · exact h
  · exact satAdd_le _ _ _

theorem le_bump {n : Nat} (h : n ≤ Config.max32) (flag : Bool) : n ≤ bump n flag := by
  cases flag
  · exact Nat.le_refl n
  · exact le_satAdd h 1

/-- R183: a frame's counters saturate. -/
theorem TallyRow.count_bounded {r : TallyRow} (h : r.bounded) (ctx : FrameContext) : (r.count ctx).bounded := by
  obtain ⟨hcells, htruncated, hresidue, hexcess⟩ := h
  refine ⟨fun k => ?_, bump_le htruncated _, bump_le hresidue _, bump_le hexcess _⟩
  simp only [TallyRow.count, get_set_ite]
  split
  · exact ⟨satAdd_le _ _ _, satAdd_le _ _ _⟩
  · exact hcells k

theorem TallyTable.count_bounded {a : TallyTable} (h : a.bounded) (ctx : FrameContext) : (a.count ctx).bounded := by
  obtain ⟨hrows, hcollisions⟩ := h
  refine ⟨fun n => ?_, bump_le hcollisions _⟩
  unfold TallyTable.count
  split
  · simp only [get_set_ite]
    split
    · exact TallyRow.count_bounded (hrows _) ctx
    · exact hrows n
  · exact hrows n

theorem TallyTable.zero_bounded : TallyTable.zero.bounded := by
  unfold TallyTable.bounded TallyRow.bounded
  decide

theorem Tally.takeFrame_live (a : Tally) (c : FrameContext) :
    (a.takeFrame c).live = a.live ∨ (a.takeFrame c).live = a.live.count c := by
  unfold Tally.takeFrame
  split
  · exact .inr rfl
  · exact .inl rfl

theorem Tally.takeFrame_snap (a : Tally) (c : FrameContext) : (a.takeFrame c).snap = a.snap := by
  unfold Tally.takeFrame
  split <;> rfl

/-- R183: both tables stay within their counters' ranges. -/
theorem tallyBounded_moves : Moves fun s => s.tally.live.bounded ∧ s.tally.snap.bounded := by
  apply moves_of_ordinary
  case keeps => exact fun s t hs h => h.tally.symm ▸ hs
  case resets => intros; exact ⟨TallyTable.zero_bounded, TallyTable.zero_bounded⟩
  case linkControl => exact fun s d i l hs => (applyLinkControl_tally d i l s).symm ▸ hs
  case counts =>
    intro s c ⟨hlive, hsnap⟩
    refine ⟨?_, (Tally.takeFrame_snap s.tally c).symm ▸ hsnap⟩
    obtain h | h := Tally.takeFrame_live s.tally c <;> rw [show (State.tally _).live = _ from h]
    · exact hlive
    · exact TallyTable.count_bounded hlive c
  case snapshot =>
    intro s clear ⟨hlive, _⟩
    cases clear
    · exact ⟨hlive, hlive⟩
    · exact ⟨TallyTable.zero_bounded, hlive⟩
  all_goals intros; assumption

theorem TallyTable.le_refl (a : TallyTable) : a.le a :=
  ⟨fun _ => ⟨fun _ => ⟨Nat.le_refl _, Nat.le_refl _⟩, Nat.le_refl _, Nat.le_refl _, Nat.le_refl _⟩, Nat.le_refl _⟩

/-- A counter in range does not fall by a frame (R180, R183). -/
theorem TallyTable.le_count {a : TallyTable} (h : a.bounded) (ctx : FrameContext) : a.le (a.count ctx) := by
  obtain ⟨hrows, hcollisions⟩ := h
  refine ⟨fun n => ?_, le_bump hcollisions _⟩
  unfold TallyTable.count
  split
  case h_2 => exact (TallyTable.le_refl a).1 n
  case h_1 m _ =>
    simp only [get_set_ite]
    split
    case isFalse => exact (TallyTable.le_refl a).1 n
    case isTrue hm =>
      subst hm
      obtain ⟨hcells, htruncated, hresidue, hexcess⟩ := hrows m
      refine ⟨fun k => ?_, le_bump htruncated _, le_bump hresidue _, le_bump hexcess _⟩
      simp only [TallyRow.count, get_set_ite]
      split
      · next hk =>
        subst hk
        exact ⟨le_satAdd (hcells _).1 _, le_satAdd (hcells _).2 _⟩
      · exact ⟨Nat.le_refl _, Nat.le_refl _⟩

/-! ### The link's lines -/

/-- What the pass-through's outputs are made of: the supply and the link's lines. -/
def State.lines (s : State) : Bool × BitVec 4 × Bool × LinkLanes := (s.powered, s.hSel, s.hClk, s.lanes)

theorem Ordinary.lines {s t : State} (h : Ordinary s t) : t.lines = s.lines := by
  simp only [State.lines, h.powered, h.hSel, h.hClk, h.lanes]

/-- What a command takes the supply and the link's lines to. -/
def linesAfter (i : Instr) (p : Bool × BitVec 4 × Bool × LinkLanes) : Bool × BitVec 4 × Bool × LinkLanes :=
  match i with
  | .powerOn => (true, p.2)
  | .powerLoss => (false, p.2)
  | .selectAsserted n => (p.1, p.2.1 ||| selectBit n, p.2.2)
  | .selectNegated n => (p.1, p.2.1 &&& ~~~ selectBit n, p.2.2)
  | .samplingEdge k => (p.1, p.2.1, k.clock, k.lanes)
  | _ => p

/-- The six rows that name what a pulse brings about (log 5). -/
def namesPulse : Instr → Bool
  | .opcodeComplete _ | .addressComplete _ | .waitDone _ | .dataByteComplete _ | .trailPulse _ | .opaquePulse _ => true
  | _ => false

theorem or_selectBit {v : BitVec 4} {n : Fin 4} (h : v.getLsbD n.val = true) : v ||| selectBit n = v := by
  revert h; revert n; revert v; decide

theorem and_not_selectBit {v : BitVec 4} {n : Fin 4} (h : v.getLsbD n.val = false) : v &&& ~~~ selectBit n = v := by
  revert h; revert n; revert v; decide

/-- A command whose judgement keeps the lines and the tally keeps them. -/
theorem takeCommand_lines {i : Instr} {judge : State → Reply × State} {s : State}
    (h : (judge s).2.lines = s.lines ∧ (judge s).2.tally = s.tally) :
    (takeCommand i judge s).lines = s.lines ∧ (takeCommand i judge s).tally = s.tally := by
  unfold takeCommand
  split
  · exact h
  · exact ⟨rfl, rfl⟩

theorem configures_lines {i : Instr} {s t : State} (hc : configures i = true) (h : exec i s = .next t) :
    t.lines = s.lines ∧ t.tally = s.tally := by
  cases i <;> cases hc <;> cases h
  all_goals refine takeCommand_lines ?_
  case linkControl =>
    unfold judgeLinkControl
    split
    · exact ⟨rfl, rfl⟩
    · split
      · simp [State.lines]
      · exact ⟨rfl, rfl⟩
  case putOpcodeEntry => unfold judgePutOpcodeEntry; (repeat' split) <;> exact ⟨rfl, rfl⟩
  case dropOpcodeEntry => unfold judgeDropOpcodeEntry; (repeat' split) <;> exact ⟨rfl, rfl⟩
  case putSlot => unfold judgePutSlot; (repeat' split) <;> exact ⟨rfl, rfl⟩
  case putStage => unfold judgePutStage; (repeat' split) <;> exact ⟨rfl, rfl⟩
  case putSequence => unfold judgePutSequence; (repeat' split) <;> exact ⟨rfl, rfl⟩
  case putCaptureSetup => unfold judgePutCaptureSetup; (repeat' split) <;> exact ⟨rfl, rfl⟩
  case setTimebase => unfold judgeSetTimebase; (repeat' split) <;> exact ⟨rfl, rfl⟩

theorem execSelectAsserted_lines {n : Fin 4} {s t : State} (h : execSelectAsserted n s = .next t) :
    t.lines = linesAfter (.selectAsserted n) s.lines := by
  cases h
  split
  · next hn => simp only [State.lines, linesAfter, or_selectBit hn]
  · dsimp only
    split
    · split
      · exact (beginFrame_ordinary n { s with hSel := s.hSel ||| selectBit n }).lines
      · rfl
    · split <;> rfl
    · rfl

theorem execSelectNegated_lines {n : Fin 4} {s t : State} (h : execSelectNegated n s = .next t) :
    t.lines = linesAfter (.selectNegated n) s.lines := by
  cases h
  split
  · dsimp only
    split
    · split
      · exact ((endFrame_ordinary _ { s with hSel := s.hSel &&& ~~~ selectBit n }).settled _).lines
      · rfl
      · rfl
    · rfl
  · next hn => simp only [State.lines, linesAfter, and_not_selectBit (Bool.eq_false_iff.mpr hn)]

theorem execSamplingEdge_lines {k : LinkLevels} {s t : State} (h : execSamplingEdge k s = .next t) :
    t.lines = linesAfter (.samplingEdge k) s.lines := by
  cases h
  split
  · split
    · exact ((takePulse_ordinary k.lanes _ (drivePins k s)).settled _).lines
    · rfl
  · rfl

/-- The lines after a command are told by the lines before it (R1). -/
theorem exec_lines {i : Instr} {s t : State} (hn : namesPulse i = false) (h : exec i s = .next t) :
    t.lines = linesAfter i s.lines := by
  by_cases hc : configures i = true
  · rw [(configures_lines hc h).1]
    cases i <;> cases hc <;> rfl
  by_cases ho : ordinary i = true
  · rw [(exec_ordinary ho h).lines]
    cases i <;> cases ho <;> rfl
  cases i
  case powerOn | powerLoss => cases h; rfl
  case resetNAsserted => cases h; dsimp only; (repeat' split) <;> rfl
  case selectAsserted => exact execSelectAsserted_lines h
  case selectNegated => exact execSelectNegated_lines h
  case samplingEdge => exact execSamplingEdge_lines h
  case opcodeComplete | addressComplete | waitDone | dataByteComplete | trailPulse | opaquePulse => cases hn
  case tallyControl => cases h; unfold takeCommand judgeTallyControl; (repeat' split) <;> rfl
  case tallySnapshot => cases h; unfold takeCommand judgeTallySnapshot; (repeat' split) <;> rfl
  case linkControl | putOpcodeEntry | dropOpcodeEntry | putSlot | putStage | putSequence | putCaptureSetup |
      setTimebase => exact absurd rfl hc
  all_goals exact absurd rfl ho

theorem nibble_getLsbD (b0 b1 b2 b3 : Bool) :
    (nibble b3 b2 b1 b0).getLsbD 0 = b0 ∧ (nibble b3 b2 b1 b0).getLsbD 1 = b1 ∧
      (nibble b3 b2 b1 b0).getLsbD 2 = b2 ∧ (nibble b3 b2 b1 b0).getLsbD 3 = b3 := by
  revert b0 b1 b2 b3; decide

/-- A lane's two pins carry the level of the side that drives it, or rest each at its own (R1). -/
def LaneCarried (d : LaneDrive) (host memory : Bool) : Prop :=
  (∀ v, d = .host v ∨ d = .memory v → host = v ∧ memory = v) ∧ ∀ a b, d = .undriven a b → host = a ∧ memory = b

theorem laneCarried_pins (d : LaneDrive) : LaneCarried d (LaneDrive.hostPin d) (LaneDrive.memoryPin d) := by
  cases d with
  | host v => exact ⟨fun w h => by simp_all [LaneDrive.hostPin, LaneDrive.memoryPin], fun a b h => by cases h⟩
  | memory v => exact ⟨fun w h => by simp_all [LaneDrive.hostPin, LaneDrive.memoryPin], fun a b h => by cases h⟩
  | undriven a b => exact ⟨fun w h => by simp at h, fun c d h => by cases h; exact ⟨rfl, rfl⟩⟩

theorem lanes_carried (l : LinkLanes) :
    ∀ p ∈ [(0, l.d0), (1, l.d1), (2, l.d2), (3, l.d3)],
      LaneCarried p.2 ((LinkLanes.hostPins l).getLsbD p.1) ((LinkLanes.memoryPins l).getLsbD p.1) := by
  obtain ⟨h0, h1, h2, h3⟩ := nibble_getLsbD (LaneDrive.hostPin l.d0) (LaneDrive.hostPin l.d1)
    (LaneDrive.hostPin l.d2) (LaneDrive.hostPin l.d3)
  obtain ⟨m0, m1, m2, m3⟩ := nibble_getLsbD (LaneDrive.memoryPin l.d0) (LaneDrive.memoryPin l.d1)
    (LaneDrive.memoryPin l.d2) (LaneDrive.memoryPin l.d3)
  intro p hp
  simp only [List.mem_cons, List.not_mem_nil, or_false] at hp
  rcases hp with rfl | rfl | rfl | rfl <;>
    simp only [LinkLanes.hostPins, LinkLanes.memoryPins, h0, h1, h2, h3, m0, m1, m2, m3, laneCarried_pins]

/-- The pass-through's outputs are made of the lines alone. -/
theorem outputs_of_lines {t t' : State} (h : t.lines = t'.lines) :
    t.powered = t'.powered ∧ t.hSel = t'.hSel ∧ t.hClk = t'.hClk ∧ t.lanes = t'.lanes ∧
      t.mSel = t'.mSel ∧ t.mClk = t'.mClk ∧ t.hD = t'.hD ∧ t.mD = t'.mD := by
  simp only [State.lines, Prod.mk.injEq] at h
  obtain ⟨hpowered, hsel, hclk, hlanes⟩ := h
  simp only [State.mSel, State.mClk, State.hD, State.mD, hpowered, hsel, hclk, hlanes, and_self]

/-- Settles O16: the pins as they are spelled, and one command's lines from the lines before it. -/
theorem repeatersIgnoreTheMonitor : Obligations.RepeatersIgnoreTheMonitor := by
  constructor
  · intro s hp
    exact ⟨if_pos hp, if_pos hp, _, _, if_pos hp, if_pos hp, lanes_carried s.lanes⟩
  · intro i s s' t t' hrows hpowered hsel hclk hlanes h h'
    have hn : namesPulse i = false := by
      cases i
      case opcodeComplete l | addressComplete l | waitDone l | dataByteComplete l | trailPulse l | opaquePulse l =>
        simpa using hrows l
      all_goals rfl
    have hbefore : s.lines = s'.lines := by simp only [State.lines, hpowered, hsel, hclk, hlanes]
    exact outputs_of_lines ((exec_lines hn h).trans (hbefore ▸ (exec_lines hn h').symm))

/-! ### The live table under one command -/

/-- R180, R183, R185: beside a clearing snapshot and the resets from outside, the live table is kept or counts one
frame. -/
theorem exec_live {i : Instr} {s t : State} (hr : hardReset i = false) (hs : i ≠ .tallySnapshot 1)
    (h : exec i s = .next t) : t.tally.live = s.tally.live ∨ ∃ c, t.tally.live = s.tally.live.count c := by
  by_cases hc : configures i = true
  · exact .inl (congrArg Tally.live (configures_lines hc h).2)
  by_cases ho : ordinary i = true
  · exact .inl (congrArg Tally.live (exec_ordinary ho h).tally)
  cases i
  case powerOn | powerLoss | resetNAsserted => cases hr
  case selectAsserted => exact .inl (congrArg Tally.live (execSelectAsserted_config h).2)
  case selectNegated =>
    obtain ⟨_, htally | ⟨c, htally⟩⟩ := execSelectNegated_config h <;> rw [htally]
    · exact .inl rfl
    · exact (Tally.takeFrame_live s.tally c).imp_right fun h => ⟨c, h⟩
  case samplingEdge => exact .inl (congrArg Tally.live (execSamplingEdge_config h).2)
  case opcodeComplete | addressComplete | waitDone | dataByteComplete | trailPulse | opaquePulse =>
    cases h; exact .inl (congrArg Tally.live (takeNamedPulse_config _ _ s).2)
  case tallyControl => cases h; unfold takeCommand judgeTallyControl; (repeat' split) <;> exact .inl rfl
  case tallySnapshot choice =>
    cases h
    have hkeep : ∀ clear, snapshotClear? choice = some clear → clear = false := by
      intro clear hclear
      cases clear
      · rfl
      · exact absurd (congrArg Instr.tallySnapshot ((onOff?_some choice true).mp hclear)) hs
    refine .inl ?_
    unfold takeCommand judgeTallySnapshot
    split
    · split
      · rfl
      · next clear hclear => rw [hkeep clear hclear]; rfl
    · rfl
  case linkControl | putOpcodeEntry | dropOpcodeEntry | putSlot | putStage | putSequence | putCaptureSetup |
      setTimebase => exact absurd rfl hc
  all_goals exact absurd rfl ho

/-- Settles O13: the ranges by the list of moves, the order command by command. -/
theorem tallyCountersBoundedAndMonotone : Obligations.TallyCountersBoundedAndMonotone := by
  refine ⟨fun s t hlive hsnap h => tallyBounded_moves.step (fun _ _ hs => hs) ⟨hlive, hsnap⟩ h, ?_⟩
  intro i s t hlive h hr hs
  obtain heq | ⟨c, heq⟩ := exec_live hr hs h <;> rw [heq]
  · exact TallyTable.le_refl _
  · exact TallyTable.le_count hlive c

/-! ### Every command answers a next state -/

theorem pending_moves (rest : List Instr) : Moves fun s => s.pending = rest := by
  apply moves_of_ordinary
  case keeps => exact fun s t hs h => h.pending.trans hs
  case linkControl => exact fun s d i l hs => (applyLinkControl_pending d i l s).trans hs
  all_goals intros; assumption

/-- Settles O2: no row of the dispatch faults or is refused, and no move touches the queue. -/
theorem everyCommandAnswersNext : Obligations.EveryCommandAnswersNext := by
  intro i s
  have hnext : ∃ t, exec i s = .next t := by cases i <;> exact ⟨_, rfl⟩
  obtain ⟨t, h⟩ := hnext
  exact ⟨t, h, (pending_moves s.pending).exec rfl h⟩

end Sys2Proof.Machine
end

section
/-! The machine as a whole, its reset state and the resets; and the bytes of a command read back (R3, R13, R14, R158,
R176, R177, R190, R191). -/

namespace Sys2Proof.Machine
open Sys2Proof

/-! ### The machine as a whole -/

/-- Settles O1: the two cases of the queue. -/
theorem stepRunsFrontCommand : Obligations.StepRunsFrontCommand :=
  ⟨fun _ _ _ => rfl, fun s h => by simp only [step, h]⟩

/-! ### The reset state -/

theorem reset_traceSound : TraceSound State.reset := by
  refine ⟨rfl, ?_, Nat.le_refl 0, fun _ => rfl, ?_, ?_, ?_⟩
  · intro h hh; cases hh
  · intro m hm; cases hm
  · decide
  · intro ctx h; cases h

theorem reset_sequencerSound : SequencerSound State.reset := by
  unfold SequencerSound
  decide

theorem reset_boundarySound : BoundarySound State.reset := by
  refine ⟨by decide, by decide, by decide, fun _ => rfl, ?_, ?_, by decide, by decide⟩
  · intro h; cases h
  · intro ctx h; cases h

theorem reset_placeSound : PlaceSound State.reset := by
  refine ⟨by decide, ?_, ?_, by decide, ?_, by decide, fun _ => rfl, ?_⟩
  · intro h; cases h rfl
  · intro bytes h; cases h
  · intro k h; cases h
  · intro h; cases h

/-- Settles O3: empty memory, queue of one entry, idle sequencer, counters at 0. -/
theorem resetMeetsInvariants : Obligations.ResetMeetsInvariants := by
  refine ⟨reset_traceSound, recordsDistinct_empty rfl rfl, ?_, reset_sequencerSound, ?_,
    holdSound_released rfl rfl, reset_boundarySound, reset_placeSound, preTriggerSound_inactive rfl,
    evaluationSound_none rfl, opcodesUnique_empty, TallyTable.zero_bounded, TallyTable.zero_bounded⟩
  · unfold QueueSound; decide
  · exact watermarkSound_below rfl (.inl rfl)

/-! ### Supply and resets -/

/-- Settles O17: each row is one state. -/
theorem supplyAndPinResetsSetEveryBlock : Obligations.SupplyAndPinResetsSetEveryBlock := by
  refine ⟨fun s => rfl, fun s hp hl => ?_, fun s => ⟨_, rfl, rfl, rfl, rfl, rfl, rfl, rfl, rfl⟩⟩
  simp only [exec, execResetNAsserted, hl, hp, if_true, Bool.false_eq_true, if_false]
  rfl

/-- Settles O18: the rows' conditions, one by one. -/
theorem leavingResetQueuesRestarted : Obligations.LeavingResetQueuesRestarted := by
  refine ⟨?_, ?_, ?_, fun s => ⟨?_, ?_, ?_, ?_, ?_⟩⟩
  · intro s hp hpor hl
    simp only [exec, execPowerOnResetEnd, hp, hpor, hl, Bool.and_self, if_true, Bool.false_eq_true, if_false]
    rfl
  · intro s hp hpor hl
    simp only [exec, execResetNReleased, hp, hpor, hl, Bool.not_false, Bool.and_self, if_true]
    rfl
  · intro s hp hpor hl
    simp [exec, execPowerOnResetEnd, execResetNReleased, hp, hpor, hl]
  · intro h
    have : (s.powered && s.porActive) = false := Bool.and_eq_false_iff.mpr h
    simp only [exec, execPowerOnResetEnd, this, Bool.false_eq_true, if_false]
  · intro hl; simp only [exec, execResetNAsserted, hl, if_true]
  · intro hl; simp only [exec, execResetNReleased, hl, Bool.false_eq_true, if_false]
  · intro hp hl; simp only [exec, execResetNAsserted, hp, hl, Bool.false_eq_true, if_false]
  · intro hp hl
    simp only [exec, execResetNReleased, hp, hl, Bool.false_and, Bool.false_eq_true, if_true, if_false]

/-! ### The bytes of a command -/

/-- The value of bytes in order, the first most significant. -/
def valueOf (bytes : List Byte) : Nat := bytes.foldl (fun v b => 256 * v + b.toNat) 0

theorem valueOf_from (bytes : List Byte) (v : Nat) :
    bytes.foldl (fun v b => 256 * v + b.toNat) v = 256 ^ bytes.length * v + valueOf bytes := by
  induction bytes generalizing v with
  | nil => simp [valueOf]
  | cons b rest ih =>
    simp only [valueOf, List.foldl_cons, List.length_cons]
    rw [ih, ih (256 * 0 + b.toNat)]
    ring

@[simp] theorem beBytes_length (n v : Nat) : (beBytes n v).length = n := by
  induction n with
  | zero => rfl
  | succ n ih => simp [beBytes, ih]

/-- The bytes of a value spell it, modulo their number. -/
theorem valueOf_beBytes (n v : Nat) : valueOf (beBytes n v) = v % 256 ^ n := by
  induction n with
  | zero => simp [beBytes, valueOf, Nat.mod_one]
  | succ n ih =>
    simp only [beBytes, valueOf, List.foldl_cons]
    rw [valueOf_from, beBytes_length, ih, Nat.pow_succ, Nat.mod_mul]
    simp only [BitVec.toNat_ofNat]
    ring

theorem ofNat_valueOf {w n : Nat} (h : 256 ^ n = 2 ^ w) (v : BitVec w) :
    BitVec.ofNat w (valueOf (beBytes n v.toNat)) = v := by
  rw [valueOf_beBytes, h, Nat.mod_eq_of_lt v.isLt, BitVec.ofNat_toNat, BitVec.setWidth_eq]

/-- The word in the `n` bytes that stand from byte `k` on. -/
def wordOf (w : Nat) (args : List Byte) (k n : Nat) : BitVec w := BitVec.ofNat w (valueOf ((args.drop k).take n))

def SlotArgs.ofBytes (a : List Byte) : SlotArgs :=
  { slot := a.getD 0 0, enabled := a.getD 1 0, targets := a.getD 2 0, kinds := a.getD 3 0, opcodeForm := a.getD 4 0
    opcodeValue := a.getD 5 0, windowForm := a.getD 6 0, low := wordOf 32 a 7 4, high := wordOf 32 a 11 4
    condition := a.getD 15 0, v1 := wordOf 32 a 16 4, v2 := wordOf 32 a 20 4, mask := wordOf 32 a 24 4
    anomalies := a.getD 28 0, scope := a.getD 29 0 }

def StageArgs.ofBytes (a : List Byte) : StageArgs :=
  { stage := a.getD 0 0, advance := wordOf 16 a 1 2, required := wordOf 16 a 3 2, restart := wordOf 16 a 5 2
    timeout := wordOf 24 a 7 3, action := a.getD 10 0 }

def SetupArgs.ofBytes (a : List Byte) : SetupArgs :=
  { mode := a.getD 0 0, repeating := a.getD 1 0, depth := wordOf 16 a 2 2, post := wordOf 16 a 4 2
    keep := wordOf 16 a 6 2, policy := a.getD 8 0, holdLimit := wordOf 32 a 9 4, filterKinds := a.getD 13 0
    filterTargets := a.getD 14 0, qualifier := a.getD 15 0, anomaliesAlways := a.getD 16 0 }

def TimebaseArgs.ofBytes (a : List Byte) : TimebaseArgs :=
  { prescale := wordOf 24 a 0 3, role := a.getD 3 0, syncAtArm := a.getD 4 0, xtOut := a.getD 5 0
    xtLen := a.getD 6 0, xtIn := a.getD 7 0 }

/-- The command a code and its argument bytes spell: `Instr.serviceBytes` read back (R158, R190). -/
def readCommand : List Byte → Option Instr
  | [] => none
  | code :: a =>
    match code.toNat with
    | 0x01 => some .status
    | 0x02 => some .nextEvent
    | 0x03 => some (.setEventMask (wordOf 16 a 0 2))
    | 0x04 => some .softReset
    | 0x10 => some (.putOpcodeEntry
        { opcode := a.getD 0 0, kind := a.getD 1 0, addrBytes := a.getD 2 0, addrWidth := a.getD 3 0
          wait := a.getD 4 0, direction := a.getD 5 0, dataWidth := a.getD 6 0 })
    | 0x11 => some (.getOpcodeEntry (a.getD 0 0) (a.getD 1 0))
    | 0x12 => some (.dropOpcodeEntry (a.getD 0 0))
    | 0x13 => some (.linkControl (a.getD 0 0) (a.getD 1 0) (a.getD 2 0))
    | 0x20 => some (.putSlot (SlotArgs.ofBytes a))
    | 0x21 => some (.getSlot (a.getD 0 0))
    | 0x28 => some (.putStage (StageArgs.ofBytes a))
    | 0x29 => some (.getStage (a.getD 0 0))
    | 0x2A => some (.putSequence (a.getD 0 0))
    | 0x30 => some (.putCaptureSetup (SetupArgs.ofBytes a))
    | 0x31 => some .getCaptureSetup
    | 0x32 => some (.arm (a.getD 0 0) (a.getD 1 0))
    | 0x33 => some .stop
    | 0x34 => some .forceTrigger
    | 0x35 => some .clearTrace
    | 0x40 => some .readRecord
    | 0x41 => some .peekRecord
    | 0x42 => some (.skipRecords (wordOf 16 a 0 2))
    | 0x43 => some .mark
    | 0x44 => some .rewind
    | 0x45 => some .release
    | 0x46 => some (.setWatermark (wordOf 16 a 0 2))
    | 0x50 => some (.setTimebase (TimebaseArgs.ofBytes a))
    | 0x51 => some .syncNow
    | 0x52 => some .readTime
    | 0x60 => some (.tallyControl (a.getD 0 0))
    | 0x61 => some (.tallySnapshot (a.getD 0 0))
    | 0x62 => some (.readTally (a.getD 0 0))
    | _ => none

theorem wordOf_here {w n : Nat} (h : 256 ^ n = 2 ^ w) (v : BitVec w) {args : List Byte} {k : Nat}
    (hargs : (args.drop k).take n = beBytes n v.toNat) : wordOf w args k n = v := by
  rw [wordOf, hargs, ofNat_valueOf h]

theorem SlotArgs.ofBytes_bytes (a : SlotArgs) : SlotArgs.ofBytes a.bytes = a := by
  simp only [SlotArgs.ofBytes]
  congr 1 <;> exact wordOf_here (n := 4) rfl _ rfl

theorem StageArgs.ofBytes_bytes (a : StageArgs) : StageArgs.ofBytes a.bytes = a := by
  simp only [StageArgs.ofBytes]
  congr 1
  case e_timeout => exact wordOf_here (n := 3) rfl _ rfl
  all_goals exact wordOf_here (n := 2) rfl _ rfl

theorem SetupArgs.ofBytes_bytes (a : SetupArgs) : SetupArgs.ofBytes a.bytes = a := by
  simp only [SetupArgs.ofBytes]
  congr 1
  case e_holdLimit => exact wordOf_here (n := 4) rfl _ rfl
  all_goals exact wordOf_here (n := 2) rfl _ rfl

theorem TimebaseArgs.ofBytes_bytes (a : TimebaseArgs) : TimebaseArgs.ofBytes a.bytes = a := by
  simp only [TimebaseArgs.ofBytes]
  congr 1
  exact wordOf_here (n := 3) rfl _ rfl

/-- A command is read back from its bytes. -/
theorem readCommand_serviceBytes {i : Instr} {b : List Byte} (h : i.serviceBytes = some b) : readCommand b = some i := by
  cases i <;> cases h
  case setEventMask k => exact congrArg (fun v => some (Instr.setEventMask v)) (wordOf_here (n := 2) rfl k rfl)
  case skipRecords k => exact congrArg (fun v => some (Instr.skipRecords v)) (wordOf_here (n := 2) rfl k rfl)
  case setWatermark k => exact congrArg (fun v => some (Instr.setWatermark v)) (wordOf_here (n := 2) rfl k rfl)
  case putSlot a => exact congrArg (fun v => some (Instr.putSlot v)) (SlotArgs.ofBytes_bytes a)
  case putStage a => exact congrArg (fun v => some (Instr.putStage v)) (StageArgs.ofBytes_bytes a)
  case putCaptureSetup a => exact congrArg (fun v => some (Instr.putCaptureSetup v)) (SetupArgs.ofBytes_bytes a)
  case setTimebase a => exact congrArg (fun v => some (Instr.setTimebase v)) (TimebaseArgs.ofBytes_bytes a)
  all_goals rfl

/-- Settles O15: both commands are the one read back from the bytes. -/
theorem serviceBytesDetermineCommand : Obligations.ServiceBytesDetermineCommand := fun _ _ _ hi hj =>
  Option.some.inj ((readCommand_serviceBytes hi).symm.trans (readCommand_serviceBytes hj))

end Sys2Proof.Machine
end

section
/-! The selects and the sampling edges of the monitored link: the frame they open, the row each pulse is, and what a
frame's end settles in its context (R3, R8, R10 to R12, R32 to R34, R118). -/

namespace Sys2Proof.Machine
open Sys2Proof

/-! ### The judgements after a happening (log 17) -/

/-- Nothing the judgements look at changed. -/
theorem settle_of_same {s t : State} (hunread : s.unread = t.unread) (hfree : s.tm.free = t.tm.free)
    (hstate : s.cc.state = t.cc.state) (hspent : s.tm.holdSpent = t.tm.holdSpent) : settle s t = t := by
  simp only [settle, hunread, hfree, hstate, hspent, and_self, if_true]

/-- The judgements look at four quantities of the state before. -/
theorem settle_congr {s s' : State} (hunread : s.unread = s'.unread) (hfree : s.tm.free = s'.tm.free)
    (hstate : s.cc.state = s'.cc.state) (hspent : s.tm.holdSpent = s'.tm.holdSpent) (t : State) :
    settle s t = settle s' t := by
  simp only [settle, hunread, hfree, hstate, hspent]

/-! ### Selects -/

theorem selectBit_getLsbD (n : Fin 4) : (selectBit n).getLsbD n.val = true := by revert n; decide

theorem selectBit_cleared (n : Fin 4) : selectBit n &&& ~~~ selectBit n = 0 := by revert n; decide

theorem ne_zero_of_getLsbD {v : BitVec 4} {n : Fin 4} (h : v.getLsbD n.val = true) : v ≠ 0 := by
  rintro rfl
  simp at h

/-- A select's line is the last asserted one exactly if the selects are its bit. -/
theorem cleared_eq_zero {v : BitVec 4} {n : Fin 4} (h : v.getLsbD n.val = true) :
    v &&& ~~~ selectBit n = 0 ↔ v = selectBit n := by
  revert h; revert n; revert v; decide

/-- R10, R29, R45, R46, R88: the frame context opened, with what the start announces. -/
theorem beginFrame_eq (n : Fin 4) {s : State} (h : s.hSel = 0) :
    beginFrame n { s with hSel := s.hSel ||| selectBit n } = reportViolation n (frameOpened n s.holdPin s) := by
  have hbit : s.hSel ||| selectBit n = selectBit n := by rw [h]; exact BitVec.zero_or
  rw [hbit]
  simp only [beginFrame, frameOpened, Capture.takeFrameStart, MatchUnit.takeFrameStart, openContext, State.holdPin]
  cases s.cc.state.storing <;> rfl

theorem exec_opening_select {n : Fin 4} {s : State} (hb : s.tap.boundary = .idle) (h : s.hSel = 0) :
    exec (.selectAsserted n) s = .next (reportViolation n (frameOpened n s.holdPin s)) := by
  have hclear : s.hSel.getLsbD n.val = false := by simp [h]
  simp only [exec, execSelectAsserted, hclear, Bool.false_eq_true, if_false, hb]
  rw [if_pos h, beginFrame_eq n h]

/-- Settles O19: the three states of an episode. -/
theorem selectOpensFrame : Obligations.SelectOpensFrame := by
  intro n s hb hsel
  rw [exec_opening_select hb hsel]
  refine ⟨fun he => ?_, fun e he hv => ?_, fun e he hv => ?_⟩
  · have hhold : s.holdPin = false := by simp [State.holdPin, he]
    have hopen : (frameOpened n false s).tm.episode = none := he
    simp only [hhold, reportViolation, hopen]
  all_goals
    have hhold : s.holdPin = true := by simp [State.holdPin, he]
    have hopen : (frameOpened n true s).tm.episode = some e := he
    simp only [hhold, reportViolation, hopen, hv, Bool.false_eq_true, if_true, if_false]
  rfl

/-- Settles O20: the rows' branches, one by one. -/
theorem selectsElsewhereChangeTheirLines : Obligations.SelectsElsewhereChangeTheirLines := by
  intro n s
  refine ⟨fun h => ?_, fun h hne ctx hb => ?_, fun h hb => ?_, fun h => ?_, fun h hne => ?_, fun h hb => ?_,
    fun h hb => ?_⟩
  · simp only [exec, execSelectAsserted, h, if_true]
  · simp only [exec, execSelectAsserted, h, Bool.false_eq_true, if_false, hb]
    rw [if_neg hne]
    rfl
  · rcases hb with hb | hb | hb <;> simp only [exec, execSelectAsserted, h, Bool.false_eq_true, if_false, hb]
  · simp only [exec, execSelectNegated, h, Bool.false_eq_true, if_false]
  · have hleft : ¬s.hSel &&& ~~~ selectBit n = 0 := fun hz => hne ((cleared_eq_zero h).mp hz)
    simp only [exec, execSelectNegated, h, if_true, hleft, if_false]
  · rcases hb with hb | hb | hb <;>
      simp only [exec, execSelectNegated, h, selectBit_getLsbD, selectBit_cleared, if_true, hb]
  · simp only [exec, execSelectNegated, h, selectBit_getLsbD, selectBit_cleared, if_true, hb]

/-- R12: the negation of the last asserted select, IN FRAME, ends the frame. -/
theorem exec_closing_select {n : Fin 4} {s : State} {ctx : FrameContext} (h : s.hSel = selectBit n)
    (hb : s.tap.boundary = .inFrame ctx) :
    exec (.selectNegated n) s = .next (happening (endFrame ctx) { s with hSel := 0 }) := by
  simp only [exec, execSelectNegated, h, selectBit_getLsbD, selectBit_cleared, if_true, hb]

/-! ### What a frame's end settles -/

/-- More than one select of the four is asserted exactly if two different ones are. -/
theorem one_lt_count_selects (v : BitVec 4) :
    1 < (List.finRange 4).countP (fun i => v.getLsbD i.val) ↔
      ∃ i j : Fin 4, i ≠ j ∧ v.getLsbD i.val = true ∧ v.getLsbD j.val = true := by
  revert v; decide

theorem truncatedAtEnd_iff (ctx : FrameContext) : truncatedAtEnd ctx = true ↔
    (∃ b a, ctx.decoding = .opcode b a) ∨ (∃ b a, ctx.decoding = .address b a) ∨
      (∃ p, ctx.decoding = .wait p) ∨ (∃ b a, ctx.decoding = .data b a ∧ ctx.dataCount = 0) := by
  unfold truncatedAtEnd
  split <;> next h => simp [h]

theorem residueAtEnd_iff (ctx : FrameContext) :
    residueAtEnd ctx = true ↔ ∃ b a, ctx.decoding = .data b a ∧ b ≠ 0 := by
  unfold residueAtEnd
  split
  · next h => simp [h]
  · next h => simpa using fun b a hd => absurd hd (h b a)

theorem targetNow_eq (ctx : FrameContext) : ctx.targetNow = (match ctx.target with
    | some t => t
    | none => .sel ctx.openingSelect) := by
  unfold FrameContext.targetNow
  cases ctx.target <;> rfl

/-- Settles O23: the flags at the end, and the target at the first pulse. -/
theorem targetAndAnomaliesSettled : Obligations.TargetAndAnomaliesSettled := by
  constructor
  · intro ctx pending
    exact ⟨truncatedAtEnd_iff ctx, residueAtEnd_iff ctx, rfl, congrArg some (targetNow_eq ctx), rfl, rfl, rfl, rfl⟩
  · intro ctx selects
    refine ⟨fun t ht => ?_, fun ht h => ?_, fun ht h => ?_⟩
    · simp only [FrameContext.decideTarget, ht]
    · simp only [FrameContext.decideTarget, ht, (one_lt_count_selects selects).mpr h, if_true]
    · simp only [FrameContext.decideTarget, ht, mt (one_lt_count_selects selects).mp h, if_false]

/-! ### Sampling edges -/

/-- R8: away from the idle level a transition is a pulse, handed to the decoder. -/
theorem exec_pulse {s : State} {ctx : FrameContext} (hb : s.tap.boundary = .inFrame ctx)
    (hclk : s.hClk = ctx.idleLevel) (l : LinkLanes) :
    exec (.samplingEdge { clock := !ctx.idleLevel, lanes := l }) s =
      .next (happening (takePulse l ctx) (drivePins { clock := !ctx.idleLevel, lanes := l } s)) := by
  have hedge : ctx.isSamplingEdge s.hClk (!ctx.idleLevel) = true := by
    cases h : ctx.idleLevel <;> simp [FrameContext.isSamplingEdge, hclk, h]
  simp only [exec, execSamplingEdge, hb, hedge, if_true]

/-- Log 5: a named pulse row is the sampling edge of that pulse, or nothing. -/
theorem takeNamedPulse_eq {s : State} {ctx : FrameContext} (hb : s.tap.boundary = .inFrame ctx) (row : PulseRow)
    (l : LinkLanes) :
    (.next (takeNamedPulse row l s) : Host.Outcome State Fault Refusal) =
      if s.hClk = ctx.idleLevel ∧ ctx.nextPulse = row then
        exec (.samplingEdge { clock := !ctx.idleLevel, lanes := l }) s
      else .next s := by
  simp only [takeNamedPulse, hb]
  split
  · next h => rw [exec_pulse hb h.1]
  · rfl

/-- Settles O24: outside IN FRAME the pins alone; inside, the pulse as its row names it. -/
theorem samplingEdgeIsTheNamedPulse : Obligations.SamplingEdgeIsTheNamedPulse := by
  intro k l s
  constructor
  · intro hout
    have hnone : ∀ row, takeNamedPulse row l s = s := by
      intro row
      unfold takeNamedPulse
      split
      · next ctx hb => exact absurd hb (hout ctx)
      · rfl
    constructor
    · unfold exec execSamplingEdge
      dsimp only
      split
      · next ctx hb => exact absurd hb (hout ctx)
      · rfl
    · intro i hi
      simp only [List.mem_cons, List.not_mem_nil, or_false] at hi
      rcases hi with rfl | rfl | rfl | rfl | rfl | rfl <;> exact congrArg Host.Outcome.next (hnone _)
  · intro ctx hb
    constructor
    · intro hback
      have hedge : ctx.isSamplingEdge s.hClk k.clock = false := by
        rcases hback with h | h <;> simp [FrameContext.isSamplingEdge, h]
      simp only [exec, execSamplingEdge, hb, hedge, Bool.false_eq_true, if_false]
      rfl
    · intro p hp
      simp only [List.mem_cons, List.not_mem_nil, or_false] at hp
      rcases hp with rfl | rfl | rfl | rfl | rfl | rfl <;> exact takeNamedPulse_eq hb _ l

end Sys2Proof.Machine
end

section
/-! The pulses of a frame: what each brings about in the context, and the points it hands to the Match Unit (R8, R9, R22
to R31). -/

namespace Sys2Proof.Machine
open Sys2Proof

/-! ### The target is all the first pulse decides -/

section
variable (ctx : FrameContext) (v : BitVec 4)

theorem decideTarget_eq : ∃ t, ctx.decideTarget v = { ctx with target := t } := by
  unfold FrameContext.decideTarget
  split
  · exact ⟨ctx.target, rfl⟩
  · exact ⟨_, rfl⟩

@[simp] theorem decideTarget_decoding : (ctx.decideTarget v).decoding = ctx.decoding := by
  obtain ⟨t, h⟩ := decideTarget_eq ctx v; rw [h]

@[simp] theorem decideTarget_entry : (ctx.decideTarget v).entry = ctx.entry := by
  obtain ⟨t, h⟩ := decideTarget_eq ctx v; rw [h]

@[simp] theorem decideTarget_opcodeLanes : (ctx.decideTarget v).opcodeLanes = ctx.opcodeLanes := by
  obtain ⟨t, h⟩ := decideTarget_eq ctx v; rw [h]

@[simp] theorem decideTarget_dataCount : (ctx.decideTarget v).dataCount = ctx.dataCount := by
  obtain ⟨t, h⟩ := decideTarget_eq ctx v; rw [h]

@[simp] theorem decideTarget_stored : (ctx.decideTarget v).stored = ctx.stored := by
  obtain ⟨t, h⟩ := decideTarget_eq ctx v; rw [h]

@[simp] theorem decideTarget_storeLimit : (ctx.decideTarget v).storeLimit = ctx.storeLimit := by
  obtain ⟨t, h⟩ := decideTarget_eq ctx v; rw [h]

@[simp] theorem decideTarget_word : (ctx.decideTarget v).word = ctx.word := by
  obtain ⟨t, h⟩ := decideTarget_eq ctx v; rw [h]

@[simp] theorem decideTarget_wordOffset : (ctx.decideTarget v).wordOffset = ctx.wordOffset := by
  obtain ⟨t, h⟩ := decideTarget_eq ctx v; rw [h]

@[simp] theorem decideTarget_firstWord : (ctx.decideTarget v).firstWord = ctx.firstWord := by
  obtain ⟨t, h⟩ := decideTarget_eq ctx v; rw [h]

@[simp] theorem decideTarget_address : (ctx.decideTarget v).address = ctx.address := by
  obtain ⟨t, h⟩ := decideTarget_eq ctx v; rw [h]

@[simp] theorem decideTarget_nextPulse : (ctx.decideTarget v).nextPulse = ctx.nextPulse := by
  obtain ⟨t, h⟩ := decideTarget_eq ctx v; rw [h]; rfl

end

/-! ### A pulse taken -/

theorem addrWidth_some {c : FrameContext} {e : OpcodeEntry} (h : c.entry = some e) : c.addrWidth = e.addrWidth := by
  simp [FrameContext.addrWidth, h]

theorem dataWidth_some {c : FrameContext} {e : OpcodeEntry} (h : c.entry = some e) : c.dataWidth = e.dataWidth := by
  simp [FrameContext.dataWidth, h]

theorem waitPulses_some {c : FrameContext} {e : OpcodeEntry} (h : c.entry = some e) : c.waitPulses = e.wait.val := by
  simp [FrameContext.waitPulses, h]

theorem addrBytes_some {c : FrameContext} {e : OpcodeEntry} (h : c.entry = some e) : c.addrBytes = e.addrBytes := by
  simp only [FrameContext.addrBytes, h]

/-- A pulse that only moves the decoder is judged by nothing. -/
theorem happening_setContext {l : LinkLanes} {ctx c : FrameContext} {s : State} {k : LinkLevels}
    (h : takePulse l ctx (drivePins k s) = setContext c (drivePins k s)) :
    happening (takePulse l ctx) (drivePins k s) =
      { s with lanes := k.lanes, hClk := k.clock, tap := s.tap.inFrame c } := by
  rw [happening, h]
  exact settle_of_same rfl rfl rfl rfl

/-- A named row, where the pulse is the one it names. -/
theorem takeNamedPulse_due {s : State} {ctx : FrameContext} {row : PulseRow} (hb : s.tap.boundary = .inFrame ctx)
    (hclk : s.hClk = ctx.idleLevel) (hrow : ctx.nextPulse = row) (l : LinkLanes) :
    takeNamedPulse row l s = happening (takePulse l ctx) (drivePins { clock := !ctx.idleLevel, lanes := l } s) := by
  simp only [takeNamedPulse, hb]
  exact if_pos ⟨hclk, hrow⟩

/-! ### Pulses that complete nothing -/

theorem exec_shift {s : State} {ctx c : FrameContext} (hb : s.tap.boundary = .inFrame ctx)
    (hclk : s.hClk = ctx.idleLevel) (l : LinkLanes) (hrow : ctx.nextPulse = .sampled)
    (hc : (ctx.decideTarget s.hSel).shifted l = c) :
    exec (.samplingEdge { clock := !ctx.idleLevel, lanes := l }) s =
      .next { s with lanes := l, hClk := !ctx.idleLevel, tap := s.tap.inFrame c } := by
  rw [exec_pulse hb hclk, happening_setContext (c := c)]
  have hsel : (drivePins { clock := !ctx.idleLevel, lanes := l } s).hSel = s.hSel := rfl
  simp only [takePulse, decideTarget_nextPulse, hrow, hsel, hc]

/-- R9: the bits a pulse gives are the host-side levels of its lanes. -/
theorem hostPin_of_carried {d : LaneDrive} {b : Bool}
    (h : d = .host b ∨ d = .memory b ∨ ∃ m, d = .undriven b m) : LaneDrive.hostPin d = b := by
  rcases h with rfl | rfl | ⟨m, rfl⟩ <;> rfl

theorem nibble_toNat (b0 b1 b2 b3 : Bool) : (nibble b3 b2 b1 b0).toNat % 2 ^ 1 = b0.toNat ∧
    (nibble b3 b2 b1 b0).toNat % 2 ^ 2 = 2 * b1.toNat + b0.toNat ∧
    (nibble b3 b2 b1 b0).toNat % 2 ^ 4 = 8 * b3.toNat + 4 * b2.toNat + 2 * b1.toNat + b0.toNat := by
  revert b0 b1 b2 b3; decide

/-- Settles O25: the lanes' bits, and the four phases in which a pulse can complete nothing. -/
theorem samplingEdgeShiftsBitsIn : Obligations.SamplingEdgeShiftsBitsIn := by
  refine ⟨fun l d h => ?_, ⟨rfl, rfl, rfl, rfl, rfl⟩, fun l s ctx hb hclk => ⟨?_, ?_, ?_, ?_⟩⟩
  · simp only [List.forall_mem_cons, List.not_mem_nil, false_imp_iff, implies_true, and_true] at h
    obtain ⟨h0, h1, h2, h3⟩ := h
    simp only [sampleBits, LinkLanes.hostPins, hostPin_of_carried h0, hostPin_of_carried h1, hostPin_of_carried h2,
      hostPin_of_carried h3]
    exact nibble_toNat (d 0) (d 1) (d 2) (d 3)
  · intro bits acc hd hlt
    refine exec_shift hb hclk l ?_ ?_
    · simp only [FrameContext.nextPulse, hd, Nat.not_le.mpr hlt, if_false]
    · simp only [FrameContext.shifted, decideTarget_decoding, hd, decideTarget_opcodeLanes, shiftIn]
  · intro bits acc e hd he hlt
    refine exec_shift hb hclk l ?_ ?_
    · simp only [FrameContext.nextPulse, hd, addrWidth_some he, addrBytes_some he, Nat.not_le.mpr hlt, if_false]
    · have hw := addrWidth_some (c := ctx.decideTarget s.hSel) (by rw [decideTarget_entry, he])
      simp only [FrameContext.shifted, decideTarget_decoding, hd, hw, shiftIn]
  · intro pulses e hd he hlt
    refine exec_shift hb hclk l ?_ ?_
    · simp only [FrameContext.nextPulse, hd, waitPulses_some he, Nat.not_le.mpr hlt, if_false]
    · simp only [FrameContext.shifted, decideTarget_decoding, hd]
  · intro bits acc e hd he hlt
    refine exec_shift hb hclk l ?_ ?_
    · simp only [FrameContext.nextPulse, hd, dataWidth_some he, Nat.not_le.mpr hlt, if_false]
    · have hw := dataWidth_some (c := ctx.decideTarget s.hSel) (by rw [decideTarget_entry, he])
      simp only [FrameContext.shifted, decideTarget_decoding, hd, hw, shiftIn]

/-! ### The opcode -/

theorem lookup_of_get {t : OpcodeTable} (hu : OpcodesUnique t) {i : Fin 32} {e : OpcodeEntry} (h : t.get i = some e) :
    t.lookup e.opcode = some e := by
  simp only [OpcodeTable.lookup, position_of_get hu h, h]

theorem lookup_none {t : OpcodeTable} {v : Byte} (h : ∀ i e, t.get i = some e → e.opcode ≠ v) : t.lookup v = none := by
  simp only [OpcodeTable.lookup, position_none.mpr h]

theorem lastPhase_eq (e : OpcodeEntry) : lastPhase e = if e.direction ≠ .none then .data 0 0 else .trail := by
  unfold lastPhase
  cases e.direction <;> rfl

theorem afterAddress_eq (e : OpcodeEntry) : afterAddress e =
    if e.wait ≠ 0 then .wait 0 else if e.direction ≠ .none then .data 0 0 else .trail := by
  have hwait : e.wait ≠ 0 ↔ ¬e.wait.val = 0 := not_congr Fin.ext_iff
  simp only [afterAddress, lastPhase_eq, hwait, ite_not]

theorem afterOpcode_some (e : OpcodeEntry) : afterOpcode (some e) =
    if e.addrBytes ≠ .zero then .address 0 0
    else if e.wait ≠ 0 then .wait 0 else if e.direction ≠ .none then .data 0 0 else .trail := by
  simp only [afterOpcode, afterAddress_eq, ne_eq, ite_not]

theorem addrBytes_eq_zero_iff (c : FrameContext) :
    c.addrBytes = .zero ↔ ¬∃ e, c.entry = some e ∧ e.addrBytes ≠ .zero := by
  unfold FrameContext.addrBytes
  cases c.entry <;> simp

/-- Settles O26: the context the last opcode pulse leaves, and the point of the NONE slots where no address comes. -/
theorem opcodeCompleteLooksUpTheEntry : Obligations.OpcodeCompleteLooksUpTheEntry := by
  refine ⟨fun t v hu => ⟨fun i e hi hv => hv ▸ lookup_of_get hu hi, lookup_none⟩, ?_⟩
  intro l s base ctx bits acc v done hb hclk hd hbits hv hdone hbase
  have hrow : ctx.nextPulse = .opcodeDone := by simp only [FrameContext.nextPulse, hd, hbits, if_true]
  have hcontext : (ctx.decideTarget s.hSel).withOpcode l s.opTable = done := by
    have hvalue : (ctx.decideTarget s.hSel).opcodeValue l = v := by
      simp only [FrameContext.opcodeValue, decideTarget_decoding, hd, decideTarget_opcodeLanes, shiftIn, hv]
    rw [hdone]
    simp only [FrameContext.withOpcode, hvalue]
    cases s.opTable.lookup v with
    | none => rfl
    | some e => simp only [afterOpcode_some]
  have hpulse : takePulse l ctx (drivePins { clock := !ctx.idleLevel, lanes := l } s) =
      if done.addrBytes = .zero then evaluate (noneAt done) base else base := by
    have hstate : setContext done (drivePins { clock := !ctx.idleLevel, lanes := l } s) = base := hbase.symm
    rw [← hstate, ← hcontext]
    simp only [takePulse, decideTarget_nextPulse, hrow]
    rfl
  have hzero : done.addrBytes = .zero ↔ ¬∃ e, s.opTable.lookup v = some e ∧ e.addrBytes ≠ .zero := by
    have hentry : done.entry = s.opTable.lookup v := by rw [hdone]
    rw [addrBytes_eq_zero_iff, hentry]
  have hexec : exec (.opcodeComplete l) s =
      .next (settle s (if done.addrBytes = .zero then evaluate (noneAt done) base else base)) := by
    refine congrArg Host.Outcome.next ?_
    rw [takeNamedPulse_due hb hclk hrow, happening, hpulse]
    exact settle_congr rfl rfl rfl rfl _
  constructor
  · intro h
    rw [hexec, if_neg (fun hz => hzero.mp hz h), hbase]
    exact congrArg Host.Outcome.next (settle_of_same rfl rfl rfl rfl)
  · intro h
    rw [hexec, if_pos (hzero.mpr h)]

/-! ### The address, the wait, the bytes -/

/-- Settles O27: the context the last address pulse leaves, and the point of the NONE slots. -/
theorem addressCompleteRecordsTheAddress : Obligations.AddressCompleteRecordsTheAddress := by
  intro l s ctx bits acc e done hb hclk hd he hbits hdone
  have hrow : ctx.nextPulse = .addressDone := by
    simp only [FrameContext.nextPulse, hd, addrWidth_some he, addrBytes_some he, hbits, if_true]
  have hcontext : (ctx.decideTarget s.hSel).withAddress l = done := by
    have hentry : (ctx.decideTarget s.hSel).entry = some e := by rw [decideTarget_entry, he]
    simp only [FrameContext.withAddress, decideTarget_decoding, hd, hentry, addrWidth_some hentry, afterAddress_eq,
      hdone, shiftIn]
  refine congrArg Host.Outcome.next ?_
  rw [takeNamedPulse_due hb hclk hrow, happening, ← hcontext]
  simp only [takePulse, decideTarget_nextPulse, hrow]
  exact settle_congr rfl rfl rfl rfl _

/-- R28: the word the fourth byte completes. -/
theorem dataWord_of_four {c : FrameContext} {e : OpcodeEntry} (he : c.entry = some e) {b0 b1 b2 b3 : Byte}
    (hw : c.word = [b0, b1, b2, b3]) :
    c.dataWord =
      { value := b0 ++ b1 ++ b2 ++ b3, first := c.firstWord, bytes := 4
        address := c.address.map fun a =>
          BitVec.ofNat 32 ((a + c.wordOffset).toNat % 2 ^ (8 * AddrBytes.toNat e.addrBytes)) } := by
  simp only [FrameContext.dataWord, hw, addrBytes_some he, wrapAddress]
  rfl

/-- Settles O28: a byte that leaves the word open, and the one that completes it. -/
theorem dataByteCompleteBuildsTheWord : Obligations.DataByteCompleteBuildsTheWord := by
  intro l s ctx bits acc b e done hb hclk hd he hbits hbyte hdone
  have hrow : ctx.nextPulse = .byteDone := by
    simp only [FrameContext.nextPulse, hd, dataWidth_some he, hbits, if_true]
  have hentry : (ctx.decideTarget s.hSel).entry = some e := by rw [decideTarget_entry, he]
  have hcontext : (ctx.decideTarget s.hSel).withByte ((ctx.decideTarget s.hSel).byteValue l) = done := by
    have hvalue : (ctx.decideTarget s.hSel).byteValue l = b := by
      simp only [FrameContext.byteValue, decideTarget_decoding, hd, dataWidth_some hentry, shiftIn, hbyte]
    rw [hvalue, hdone]
    simp only [FrameContext.withByte, decideTarget_dataCount, decideTarget_stored, decideTarget_storeLimit,
      decideTarget_word]
  have hpulse : takePulse l ctx (drivePins { clock := !ctx.idleLevel, lanes := l } s) =
      if 4 ≤ done.word.length then
        evaluate (wordAt done done.dataWord)
          (setContext done.nextWord (drivePins { clock := !ctx.idleLevel, lanes := l } s))
      else setContext done (drivePins { clock := !ctx.idleLevel, lanes := l } s) := by
    rw [← hcontext]
    simp only [takePulse, decideTarget_nextPulse, hrow]
    rfl
  have hword : done.word = ctx.word ++ [b] := by rw [hdone]
  have hexec : exec (.dataByteComplete l) s = .next (happening (takePulse l ctx)
      (drivePins { clock := !ctx.idleLevel, lanes := l } s)) :=
    congrArg Host.Outcome.next (takeNamedPulse_due hb hclk hrow l)
  constructor
  · intro hopen
    have hlen : ¬4 ≤ done.word.length := by rw [hword, List.length_append, List.length_singleton]; omega
    rw [if_neg hlen] at hpulse
    rw [hexec, happening_setContext hpulse]
  · intro b0 b1 b2 hthree
    have hfour : done.word = [b0, b1, b2, b] := by rw [hword, hthree]; rfl
    have hdoneEntry : done.entry = some e := by rw [hdone]; exact hentry
    have hdata := dataWord_of_four hdoneEntry hfour
    have hfirst : done.firstWord = ctx.firstWord := by rw [hdone]; exact decideTarget_firstWord ctx s.hSel
    have haddress : done.address = ctx.address := by rw [hdone]; exact decideTarget_address ctx s.hSel
    have hoffset : done.wordOffset = ctx.wordOffset := by rw [hdone]; exact decideTarget_wordOffset ctx s.hSel
    rw [hfirst, haddress, hoffset] at hdata
    rw [if_pos (by rw [hfour]; exact Nat.le_refl 4), hdata, FrameContext.nextWord, hoffset] at hpulse
    rw [hexec, happening, hpulse]
    exact congrArg Host.Outcome.next (settle_congr rfl rfl rfl rfl _)

/-- Settles O29: three pulses that only move the decoder. -/
theorem waitTrailAndOpaquePulses : Obligations.WaitTrailAndOpaquePulses := by
  intro l s ctx hb hclk
  refine ⟨fun pulses e hd he hdone => ?_, fun hd => ?_, fun hd => ?_⟩
  · have hrow : ctx.nextPulse = .waitOver := by
      simp only [FrameContext.nextPulse, hd, waitPulses_some he, hdone, if_true]
    have hcontext : (ctx.decideTarget s.hSel).withWaitDone =
        { ctx.decideTarget s.hSel with decoding := if e.direction = .none then .trail else .data 0 0 } := by
      simp only [FrameContext.withWaitDone, decideTarget_entry, he, lastPhase_eq, ne_eq, ite_not]
    refine congrArg Host.Outcome.next ?_
    rw [takeNamedPulse_due hb hclk hrow, ← hcontext]
    refine happening_setContext ?_
    simp only [takePulse, decideTarget_nextPulse, hrow]
    rfl
  · have hrow : ctx.nextPulse = .trail := by simp only [FrameContext.nextPulse, hd]
    refine congrArg Host.Outcome.next ?_
    rw [takeNamedPulse_due hb hclk hrow]
    refine happening_setContext ?_
    simp only [takePulse, decideTarget_nextPulse, hrow]
    rfl
  · have hrow : ctx.nextPulse = .unlisted := by simp only [FrameContext.nextPulse, hd]
    refine congrArg Host.Outcome.next ?_
    rw [takeNamedPulse_due hb hclk hrow]
    refine happening_setContext ?_
    simp only [takePulse, decideTarget_nextPulse, hrow, FrameContext.withOpaquePulse, decideTarget_dataCount]
    rfl

end Sys2Proof.Machine
end

section
/-! A frame's end: outside a session, as a member that is judged and recorded, and in the tally (R12, R54, R64, R88 to
R90, R97, R102, R180, R181). -/

namespace Sys2Proof.Machine
open Sys2Proof

/-! ### Evaluation whose groups have no effect (R64) -/

/-- The frame in progress hands its groups over without effect, if it is evaluated at all. -/
def Inert (s : State) : Prop := ∀ e, s.mu.eval = some e → s.seq.state ≠ .watching ∨ e.start ≤ s.seq.sessionStart

/-- `t` is `s` but for the evaluation in progress. -/
def SameButEval (s t : State) : Prop := ∃ ev, t = { s with mu := { s.mu with eval := ev } }

theorem takeGroup_inert {start : Nat} {s : State} (h : s.seq.state ≠ .watching ∨ start ≤ s.seq.sessionStart)
    (group : BitVec 8) : takeGroup start group s = s := by
  have hno : ¬(s.seq.state = .watching ∧ s.seq.sessionStart < start) := by
    rintro ⟨hw, hlt⟩
    exact h.elim (· hw) (Nat.not_le.mpr hlt)
  rw [takeGroup, if_neg hno]

theorem evaluate_inert {point : Slot → SlotProgress → SlotProgress × Bool} {s t : State}
    (h : Inert t ∧ SameButEval s t) : Inert (evaluate point t) ∧ SameButEval s (evaluate point t) := by
  obtain ⟨hinert, ev, ht⟩ := h
  unfold evaluate
  split
  · exact ⟨hinert, ev, ht⟩
  · next e he =>
    rw [takeGroup_inert (s := { t with mu := { t.mu with eval := some (e.after point) } }) (hinert e he)]
    refine ⟨?_, some (e.after point), ?_⟩
    · intro e' he'
      cases he'
      exact hinert e he
    · rw [ht]

/-- A frame's end at the Match Unit changes nothing but the evaluation, where groups have no effect. -/
theorem matchFrameEnd_inert {s : State} (h : Inert s) (c : FrameContext) : SameButEval s (matchFrameEnd c s) :=
  (matchFrameEnd_keeps (P := fun t => Inert t ∧ SameButEval s t) ⟨h, s.mu.eval, rfl⟩
    fun _ _ ht => evaluate_inert ht).2

/-! ### Outside a session -/

/-- R88: the end of a frame that is no member makes the current frame absent. -/
theorem captureFrameEnd_outside {s : State} (h : ∀ f, s.cc.current = some f → f.member = false)
    (c : FrameContext) (hits : BitVec 8) :
    captureFrameEnd c hits s = { s with cc := { s.cc with current := none } } := by
  unfold captureFrameEnd
  cases hf : s.cc.current with
  | none => rfl
  | some f => simp only [h f hf, Bool.false_and, Bool.false_eq_true, if_false]

/-- Settles O21: no group has an effect, nothing is captured, and nothing is left to judge. -/
theorem frameEndOutsideSession : Obligations.FrameEndOutsideSession := by
  intro n s ctx hsel hb hmember hinert
  rw [exec_closing_select hsel hb]
  refine congrArg Host.Outcome.next ?_
  obtain ⟨ev, hmatch⟩ := matchFrameEnd_inert (s := { s with hSel := 0 }) hinert (ctx.closed s.tb.timeReset)
  have hend : endFrame ctx { s with hSel := 0 } =
      { s with
        hSel := 0
        tap := { s.tap with boundary := .idle }
        mu := { s.mu with eval := none }
        cc := { s.cc with current := none }
        tally := s.tally.takeFrame (ctx.closed s.tb.timeReset) } := by
    obtain ⟨m, e, hm, he, h⟩ := endFrame_eq ctx { s with hSel := 0 }
    rw [hmatch] at hm
    subst hm
    rw [h, he.trans (captureFrameEnd_outside (by exact hmember) _ _)]
  rw [happening, hend]
  exact settle_of_same rfl rfl rfl rfl

/-! ### A member frame -/

/-- R88, R89: a member frame that ends in a storing state is seen and judged. -/
theorem captureFrameEnd_member {s : State} {f : CurrentFrame} (hf : s.cc.current = some f) (hm : f.member = true)
    (hstoring : s.cc.state.storing = true) (c : FrameContext) (hits : BitVec 8) :
    captureFrameEnd c hits s =
      { memberFrameEnd c hits f s with cc := { (memberFrameEnd c hits f s).cc with current := none } } := by
  simp only [captureFrameEnd, hf, hm, hstoring, Bool.and_self, if_true]

theorem memberFrameEnd_unqualified {s : State} {c : FrameContext} {hits : BitVec 8} {f : CurrentFrame}
    (h : qualifies s.cc c hits f.pending = false) :
    memberFrameEnd c hits f s = { s with cc := { s.cc with seen := satAdd Config.max32 s.cc.seen 1 } } := by
  simp only [memberFrameEnd, h, Bool.false_eq_true, if_false]

theorem memberFrameEnd_qualified {s : State} {c : FrameContext} {hits : BitVec 8} {f : CurrentFrame}
    (h : qualifies s.cc c hits f.pending = true) :
    memberFrameEnd c hits f s =
      offerFrame (frameRecord c (f.number.getD 0) hits s.seq.reported f.pending) f.pending
        { s with cc := { s.cc with
          seen := satAdd Config.max32 s.cc.seen 1, qualified := satAdd Config.max32 s.cc.qualified 1 } } := by
  simp only [memberFrameEnd, h, if_true]

/-- R97, R103, R105: in STREAMING, with no loss run pending, a FRAME record that fits is appended. -/
theorem offerFrame_streaming {r : FrameRecord} {trigger : Bool} {s : State} (hstate : s.cc.state = .streaming)
    (hloss : s.cc.loss = none) (hfits : (Record.frame r).units ≤ s.tm.free) :
    offerFrame r trigger s = appendRecord (.frame r) false s := by
  have hunits : offerUnits (.frame r) s = (Record.frame r).units := by simp [offerUnits, hloss]
  have hoffer : offer (.frame r) false s = (true, appendRecord (.frame r) false s) := by
    simp only [offer, judgeOffer, hstate, hunits, hfits, if_true, grantOffer, appendGap, hloss]
    rfl
  simp only [offerFrame, hstate, hoffer, if_true]

/-- R12, R88: the last negation of a member frame that ends in a storing state. -/
theorem exec_closing_member {n : Fin 4} {s m u : State} {ctx c : FrameContext} {f : CurrentFrame} {hits : BitVec 8}
    (hsel : s.hSel = selectBit n) (hb : s.tap.boundary = .inFrame ctx) (hc : c = ctx.closed s.tb.timeReset)
    (hm : m = matchFrameEnd c { s with hSel := 0 }) (hhits : hits = m.mu.hitSet) (hf : m.cc.current = some f)
    (hmember : f.member = true) (hstoring : m.cc.state.storing = true)
    (hu : memberFrameEnd c hits f { m with mu := { m.mu with eval := none } } = u) :
    exec (.selectNegated n) s = .next (settle s
      { u with
        tap := { u.tap with boundary := .idle }
        cc := { u.cc with current := none }
        tally := u.tally.takeFrame c }) := by
  rw [exec_closing_select hsel hb, happening]
  have hend : endFrame ctx { s with hSel := 0 } =
      { u with
        tap := { u.tap with boundary := .idle }
        cc := { u.cc with current := none }
        tally := u.tally.takeFrame c } := by
    obtain ⟨m', e, hm', he, h⟩ := endFrame_eq ctx { s with hSel := 0 }
    have hmm : m' = m := by rw [hm', hm, hc]
    subst hmm
    have hcaptured := captureFrameEnd_member (s := { m' with mu := { m'.mu with eval := none } }) hf hmember hstoring
      c hits
    rw [hu] at hcaptured
    subst hc hhits
    rw [h, he.trans hcaptured]
  rw [hend]
  exact congrArg Host.Outcome.next (settle_congr rfl rfl rfl rfl _)

/-! ### Which frames qualify, and what their records hold -/

theorem anomalies_ne_zero_iff (c : FrameContext) : c.anomalies ≠ 0 ↔
    c.truncated = true ∨ c.residue = true ∨ c.excess = true ∨ c.collision = true := by
  unfold FrameContext.anomalies
  cases c.truncated <;> cases c.residue <;> cases c.excess <;> cases c.collision <;> decide

/-- Two slot sets meet in a slot. -/
theorem and_ne_zero_iff (a b : BitVec 8) :
    a &&& b ≠ 0 ↔ ∃ i < 8, a.getLsbD i = true ∧ b.getLsbD i = true := by
  rw [ne_eq, BitVec.eq_of_getLsbD_eq_iff]
  simp [BitVec.getLsbD_and]

theorem kindCode_eq (c : FrameContext) : c.kind.code = (match c.entry with
    | some e => e.kind.code
    | none => 5) := by
  unfold FrameContext.kind
  cases c.entry <;> rfl

/-- R89: qualification. -/
theorem qualifies_iff {cc : Capture} {c : FrameContext} {hits : BitVec 8} {trigger : Bool} {kind target : Nat}
    (hkind : c.kind.code = kind) (htarget : c.targetNow.bit = target) :
    qualifies cc c hits trigger = true ↔ trigger = true ∨
      (¬(cc.setup.mode = .window ∧ cc.setup.depth = 0 ∧ cc.state = .pretrig) ∧
        ((cc.setup.anomaliesAlways = true ∧
            (c.truncated = true ∨ c.residue = true ∨ c.excess = true ∨ c.collision = true)) ∨
          (cc.setup.filterKinds.getLsbD kind = true ∧ cc.setup.filterTargets.getLsbD target = true ∧
            (cc.setup.qualifier = 0 ∨
              ∃ i < 8, cc.setup.qualifier.getLsbD i = true ∧ hits.getLsbD i = true)))) := by
  rw [← anomalies_ne_zero_iff, ← and_ne_zero_iff, ← hkind, ← htarget]
  simp only [qualifies, Bool.or_eq_true, Bool.and_eq_true, Bool.not_eq_true', decide_eq_true_eq,
    Bool.and_eq_false_iff, decide_eq_false_iff_not, and_assoc, not_and_or, or_assoc]

/-- Settles O22: a member frame's end judged, an append spelled, qualification and the record's fields. -/
theorem memberFrameIsJudgedAndRecorded : Obligations.MemberFrameIsJudgedAndRecorded := by
  refine ⟨?_, ?_, ?_, ?_⟩
  · intro n s m e u ctx c f hits hsel hb hc hm hhits hf hmember hstoring he hno hyes
    refine exec_closing_member hsel hb hc hm hhits hf hmember hstoring ?_
    cases hq : qualifies m.cc c hits f.pending with
    | false =>
      rw [hno hq, he]
      exact memberFrameEnd_unqualified (s := { m with mu := { m.mu with eval := none } }) hq
    | true =>
      rw [hyes hq, he]
      exact memberFrameEnd_qualified (s := { m with mu := { m.mu with eval := none } }) hq
  · intro n s ctx f c m hits r hsel hb hstate hf hmember hloss htriggered hc hm hhits hq hr hfits
    obtain ⟨ev, hmatch⟩ := matchFrameEnd_inert (s := { s with hSel := 0 })
      (fun _ _ => .inl (by rw [htriggered]; decide)) c
    have hms := hm.trans hmatch
    have hcc : m.cc = s.cc := by rw [hms]
    have hreported : m.seq.reported = none := by rw [hms]; exact if_pos htriggered
    have hreset : r.timeReset = s.tb.timeReset := by rw [hr, hc]; rfl
    have hq' : qualifies m.cc c hits f.pending = true := by rw [hcc]; exact hq
    have hu := memberFrameEnd_qualified (s := { m with mu := { m.mu with eval := none } }) hq'
    rw [show State.seq _ = m.seq from rfl, hreported, ← hr] at hu
    have happend := hu.trans (offerFrame_streaming (by rw [← hstate, ← hcc]) (by rw [← hloss, ← hcc])
      (by rw [hms]; exact hfits))
    have hcleared : (s.tb.timeReset && !r.timeReset) = false := by rw [hreset]; exact Bool.and_not_self _
    have hstored : r.stored = c.stored := by rw [hr]; rfl
    rw [exec_closing_member hsel hb hc hm hhits (by rw [hcc]; exact hf) hmember (by rw [hcc, hstate]; rfl) happend]
    simp only [appendRecord, Record.flaggedTimeReset, Record.units, hms, hcleared, hstored]
    exact congrArg Host.Outcome.next (settle_congr rfl rfl rfl rfl _)
  · intro cc c hits trigger kind target hkind htarget
    refine qualifies_iff ((kindCode_eq c).trans hkind.symm) ?_
    unfold FrameContext.targetNow
    rcases htarget with ⟨n, h, rfl⟩ | ⟨h, rfl⟩ <;> rw [h] <;> rfl
  · intro c number hits q trigger tgt htarget
    have htgt : c.targetNow = tgt := by unfold FrameContext.targetNow; rw [htarget]; rfl
    simp only [frameRecord, htgt, FrameContext.kind, FrameContext.addrBytes, Sequencer.reported]
    cases c.opcode <;> rfl

end Sys2Proof.Machine
end

section
/-! What a delivered frame adds to the tally, and what the evaluation points ask of a slot (R33, R37, R39, R40, R42, R45,
R47, R51 to R54, R180, R181). -/

namespace Sys2Proof.Machine
open Sys2Proof

/-! ### The tally -/

theorem bump_eq (n : Nat) (flag : Bool) : bump n flag = if flag then min Config.max32 (n + 1) else n := rfl

theorem kindCell_eq (c : FrameContext) : c.kind.cell = (match c.entry with
    | none => 5
    | some e => match e.kind with
      | .read => 0
      | .write => 1
      | .erase => 2
      | .control => 3
      | .status => 4
      | .unlisted => 5) := by
  unfold FrameContext.kind
  cases c.entry with
  | none => rfl
  | some e => dsimp only; cases e.kind <;> rfl

theorem targetNow_some {c : FrameContext} {t : Target} (h : c.target = some t) : c.targetNow = t := by
  simp only [FrameContext.targetNow, h, Option.getD_some]

/-- R180: a numbered target's row counts the frame, and no other row. -/
theorem TallyTable.count_rows {c : FrameContext} {n : Fin 4} (h : c.target = some (.sel n)) (a : TallyTable)
    (j : Fin 4) : (a.count c).rows.get j = if n = j then (a.rows.get n).count c else a.rows.get j := by
  simp only [TallyTable.count, targetNow_some h, get_set_ite]

/-- Settles O30: the row, the cell and the counters of a delivered frame. -/
theorem tallyCountsDeliveredFrame : Obligations.TallyCountsDeliveredFrame := by
  intro a ctx cell hcell
  have hkind : ctx.kind.cell = cell := (kindCell_eq ctx).trans hcell.symm
  refine ⟨rfl, fun h => ?_, fun n h => ⟨fun j hj => ?_, fun k hk => ?_, ?_, ?_, ?_, ?_⟩⟩
  · simp only [TallyTable.count, targetNow_some h]
  · rw [TallyTable.count_rows h, if_neg hj.symm]
  · rw [TallyTable.count_rows h, if_pos rfl]
    simp only [TallyRow.count, hkind, get_set_ite, if_neg hk.symm]
  · rw [TallyTable.count_rows h, if_pos rfl]
    simp only [TallyRow.count, hkind, get_set_ite, if_true]
    rfl
  all_goals
    rw [TallyTable.count_rows h, if_pos rfl]
    rfl

/-! ### What a slot asks -/

theorem frameMeets_iff {c : FrameContext} {f : Slot} {kind target : Nat} (hkind : c.kind.code = kind)
    (htarget : c.targetNow.bit = target) :
    f.frameMeets c = true ↔
      f.enabled = true ∧ f.targets.getLsbD target = true ∧ f.kinds.getLsbD kind = true ∧
      (f.opcode = none ∨ ∃ v, f.opcode = some v ∧ c.opcode = some v) := by
  unfold Slot.frameMeets
  rw [hkind, htarget]
  cases f.opcode <;> simp [and_assoc]

theorem windowMeets_iff (f : Slot) (a : Option Word32) : f.windowMeets a = true ↔
    f.window = none ∨
      ∃ low high x, f.window = some (low, high) ∧ a = some x ∧ low.toNat ≤ x.toNat ∧ x.toNat ≤ high.toNat := by
  unfold Slot.windowMeets
  rcases f.window with _ | ⟨low, high⟩
  · simp
  · cases a <;> simp [BitVec.le_def]

theorem noneAt_hit_iff (c : FrameContext) (f : Slot) (p : SlotProgress) : (noneAt c f p).2 = true ↔
    f.condition = .none ∧ f.frameMeets c = true ∧ f.windowMeets c.address = true := by
  simp only [noneAt, Bool.and_eq_true, decide_eq_true_eq, and_assoc]

/-- Two anomaly sets meet in a flag. -/
theorem anomalies_meet_iff (v : BitVec 4) (b0 b1 b2 b3 : Bool) : v &&& nibble b3 b2 b1 b0 ≠ 0 ↔
    (v.getLsbD 0 = true ∧ b0 = true) ∨ (v.getLsbD 1 = true ∧ b1 = true) ∨ (v.getLsbD 2 = true ∧ b2 = true) ∨
      (v.getLsbD 3 = true ∧ b3 = true) := by
  revert v b0 b1 b2 b3; decide

theorem anomalyAt_hit_iff (c : FrameContext) (f : Slot) (p : SlotProgress) : (anomalyAt c f p).2 = true ↔
    f.condition = .anomaly ∧ f.frameMeets c = true ∧
      ((f.anomalies.getLsbD 0 = true ∧ c.truncated = true) ∨ (f.anomalies.getLsbD 1 = true ∧ c.residue = true) ∨
        (f.anomalies.getLsbD 2 = true ∧ c.excess = true) ∨ (f.anomalies.getLsbD 3 = true ∧ c.collision = true)) := by
  rw [← anomalies_meet_iff]
  simp only [anomalyAt, Bool.and_eq_true, decide_eq_true_eq, and_assoc]
  rfl

/-! ### The points of a frame's end (R33, R37) -/

theorem matchFrameEnd_partial {c : FrameContext} {bits : Nat} {acc : Byte} (hd : c.decoding = .data bits acc)
    (hw : c.word ≠ []) (s : State) :
    matchFrameEnd c s = evaluate (anomalyAt c) (evaluate (wordAt c c.dataWord) s) := by
  have hpartial : c.hasPartialWord = true := by simp [FrameContext.hasPartialWord, hd, hw]
  simp only [matchFrameEnd, hpartial, if_true]

theorem matchFrameEnd_whole {c : FrameContext} (h : c.word = [] ∨ ∀ bits acc, c.decoding ≠ .data bits acc)
    (s : State) : matchFrameEnd c s = evaluate (anomalyAt c) s := by
  have hpartial : c.hasPartialWord = false := by
    unfold FrameContext.hasPartialWord
    split
    · next bits acc hd => rcases h with h | h; exacts [by rw [h]; rfl, absurd hd (h bits acc)]
    · rfl
  simp only [matchFrameEnd, hpartial, Bool.false_eq_true, if_false]

theorem dataWord_eq {c : FrameContext} {e : OpcodeEntry} (he : c.entry = some e) :
    c.dataWord =
      { value := wordValue c.word, first := c.firstWord, bytes := c.word.length
        address := c.address.map fun a =>
          BitVec.ofNat 32 ((a + c.wordOffset).toNat % 2 ^ (8 * AddrBytes.toNat e.addrBytes)) } := by
  simp only [FrameContext.dataWord, addrBytes_some he, wrapAddress]

/-- Settles O32: the conditions, the points of a frame's end, and a slot at any point. -/
theorem slotHitsAtMostOncePerFrame : Obligations.SlotHitsAtMostOncePerFrame := by
  refine ⟨?_, fun ctx s => ⟨?_, fun h => matchFrameEnd_whole h s⟩, fun point s => ⟨fun h => ?_, fun e h => ?_⟩, ?_⟩
  · intro ctx f p kind target hkind htarget
    have hnow : ctx.targetNow.bit = target := by
      rcases htarget with ⟨n, h, rfl⟩ | ⟨h, rfl⟩ <;> rw [targetNow_some h] <;> rfl
    exact ⟨frameMeets_iff ((kindCode_eq ctx).trans hkind.symm) hnow, windowMeets_iff f, rfl, noneAt_hit_iff ctx f p,
      rfl, anomalyAt_hit_iff ctx f p⟩
  · intro bits acc e v hd he hword
    have hvalue : ctx.word ≠ [] ∧ wordValue ctx.word = v := by
      rcases hword with ⟨b0, h, rfl⟩ | ⟨b0, b1, h, rfl⟩ | ⟨b0, b1, b2, h, rfl⟩ <;> rw [h] <;>
        exact ⟨List.cons_ne_nil _ _, rfl⟩
    rw [matchFrameEnd_partial hd hvalue.1, dataWord_eq he, hvalue.2]
  · simp only [evaluate, h]
  · simp only [evaluate, h]
  · intro e point i
    refine ⟨fun hdone => ?_, fun hdone => ?_, rfl, rfl, rfl⟩
    · rw [group_getLsbD, after_progress, slotPoint_of_done hdone]
      exact ⟨rfl, rfl⟩
    · rw [group_getLsbD, after_progress, slotPoint_of_not_done hdone]
      cases (point (e.copy.get i) (e.progress.get i)).2 <;> exact ⟨rfl, rfl⟩

end Sys2Proof.Machine
end

section
/-! A slot over the data words of a frame: a WORD slot hits on an agreeing word, a PAIR slot on two consecutive ones (R48,
R49, R50). -/

namespace Sys2Proof.Machine
open Sys2Proof

section
variable {ctx : FrameContext} {f : Slot} {p : SlotProgress} {w : DataWord} {rest : List DataWord}

/-- R52: a slot that is not done hits at a word, or goes on from it. -/
theorem hitsAmong_cons (hp : p.done = false) : hitsAmong ctx f p (w :: rest) = true ↔
    (wordAt ctx w f p).2 = true ∨ hitsAmong ctx f (wordAt ctx w f p).1 rest = true := by
  simp only [hitsAmong, slotPoint_of_not_done hp]
  cases (wordAt ctx w f p).2 <;> simp

theorem compares_of_whole (h : w.bytes = 4) : f.compares w = true := by
  simp [Slot.compares, h, Nat.mod_one]

/-! ### WORD (R48) -/

theorem wordAt_wordHit (hc : f.condition = .word) : (wordAt ctx w f p).2 = true ↔
    f.compares w = true ∧ (f.scope = .any ∨ p.words = 0) ∧ f.frameMeets ctx = true ∧
      agrees f.mask w.value f.v1 = true ∧ f.windowMeets w.address = true := by
  cases hw : f.compares w with
  | false => simp [wordAt_of_not_compares hw]
  | true => simp [wordAt, hw, hc, wordStep, and_assoc]

/-- Under ANY, each word is judged alone. -/
theorem hitsAmong_word_any (hc : f.condition = .word) (hs : f.scope = .any) (words : List DataWord)
    (hp : p.done = false) : hitsAmong ctx f p words = true ↔ f.frameMeets ctx = true ∧
      ∃ w ∈ words, f.compares w = true ∧ agrees f.mask w.value f.v1 = true ∧ f.windowMeets w.address = true := by
  induction words generalizing p with
  | nil => simp [hitsAmong]
  | cons w rest ih =>
    rw [hitsAmong_cons hp, wordAt_wordHit hc, ih ((wordAt_keepsDone ctx w f p).trans hp)]
    simp only [hs, true_or, true_and, List.exists_mem_cons_iff]
    tauto

/-- Under FIRST, a slot that has compared a word hits no more. -/
theorem hitsAmong_word_first (hc : f.condition = .word) (hs : f.scope = .first) (words : List DataWord)
    (hp : p.done = false) (hwords : p.words ≠ 0) : hitsAmong ctx f p words = false := by
  induction words generalizing p with
  | nil => rfl
  | cons w rest ih =>
    have hnext : (wordAt ctx w f p).1.words ≠ 0 := by
      cases hw : f.compares w with
      | false => simpa [wordAt_of_not_compares hw] using hwords
      | true => simp [wordAt, hw, hc, wordStep]
    rw [Bool.eq_false_iff, ne_eq, hitsAmong_cons hp, wordAt_wordHit hc, ih ((wordAt_keepsDone ctx w f p).trans hp) hnext]
    simp [hs, hwords]

end

/-- A word that is not whole is the last one. -/
theorem rest_nil_of_partial {ws tail rest : List DataWord} {w : DataWord} (hws : ∀ w ∈ ws, w.bytes = 4)
    (htail : tail.length ≤ 1) (hw : w.bytes ≠ 4) (h : ws ++ tail = w :: rest) : rest = [] := by
  cases ws with
  | nil =>
    rw [List.nil_append] at h
    rw [h, List.length_cons] at htail
    exact List.length_eq_zero_iff.mp (by omega)
  | cons a ws =>
    obtain ⟨rfl, _⟩ := List.cons.inj h
    exact absurd (hws a (List.mem_cons_self ..)) hw

/-- The progress of a slot at the start of a frame (R46). -/
theorem fresh_done : ({ done := false, words := 0, openPair := false } : SlotProgress).done = false := rfl

/-- Settles O33: under ANY by induction on the words, under FIRST by the first word alone. -/
theorem wordSlotHitsOnAgreeingWord : Obligations.WordSlotHitsOnAgreeingWord := by
  intro ctx f ws tail hc hws htail hbytes
  refine ⟨fun w hw => compares_of_whole (hws w hw), fun hs => hitsAmong_word_any hc hs _ fresh_done, fun hs => ?_⟩
  cases hwords : ws ++ tail with
  | nil => simp [hitsAmong]
  | cons w rest =>
    have hrest : hitsAmong ctx f (wordAt ctx w f { done := false, words := 0, openPair := false }).1 rest = false := by
      cases hw : f.compares w with
      | true => exact hitsAmong_word_first hc hs rest ((wordAt_keepsDone ctx w f _).trans rfl) (by simp [wordAt, hw, hc, wordStep])
      | false =>
        have hpartial : w.bytes ≠ 4 := fun h => by simp [compares_of_whole h] at hw
        rw [rest_nil_of_partial hws htail hpartial hwords]
        rfl
    rw [hitsAmong_cons fresh_done, wordAt_wordHit hc, hrest]
    simp only [Bool.false_eq_true, or_false, or_true, true_and, List.cons.injEq]
    constructor
    · rintro ⟨hcompared, hmeets, hagrees, hwindow⟩
      exact ⟨hmeets, w, rest, ⟨rfl, rfl⟩, hcompared, hagrees, hwindow⟩
    · rintro ⟨hmeets, a, r, ⟨rfl, rfl⟩, hcompared, hagrees, hwindow⟩
      exact ⟨hcompared, hmeets, hagrees, hwindow⟩

/-! ### PAIR (R49) -/

section
variable {ctx : FrameContext} {f : Slot} {p : SlotProgress} {w : DataWord} {rest : List DataWord}

/-- A word opens a pair, or closes one. -/
def Opens (f : Slot) (w : DataWord) : Prop := agrees f.mask w.value f.v1 = true ∧ f.windowMeets w.address = true

def Closes (f : Slot) (w : DataWord) : Prop := f.compares w = true ∧ agrees f.mask w.value f.v2 = true

/-- R49: a compared word is judged by a PAIR slot's own rule. -/
theorem wordAt_pair (hc : f.condition = .pair) (hw : f.compares w = true) :
    wordAt ctx w f p = pairStep ctx w f p := by simp only [wordAt, hw, hc, if_true]

/-- R49, R50: the word closes an open pair. -/
theorem wordAt_pairHit (hc : f.condition = .pair) : (wordAt ctx w f p).2 = true ↔
    p.openPair = true ∧ (f.scope = .any ∨ p.words = 1) ∧ f.frameMeets ctx = true ∧ Closes f w := by
  unfold Closes
  cases hw : f.compares w with
  | false => simp [wordAt_of_not_compares hw]
  | true =>
    simp only [wordAt, hw, hc, if_true, pairStep]
    split
    · next h => simp only [h.1]; simp; omega
    · simp [and_assoc]

/-- R49: a whole word that did not close a pair opens one. -/
theorem wordAt_pairOpens (hc : f.condition = .pair) (hw : w.bytes = 4) (hmay : f.scope = .any ∨ p.words = 0)
    (hno : (wordAt ctx w f p).2 = false) : (wordAt ctx w f p).1.openPair = true ↔ Opens f w := by
  have hlate : ¬(f.scope = .first ∧ 2 ≤ p.words) := by
    rintro ⟨hf, h2⟩
    rcases hmay with h | h
    · rw [hf] at h; cases h
    · omega
  rw [wordAt_pair hc (compares_of_whole hw)] at hno ⊢
  simp only [pairStep, hlate, if_false] at hno ⊢
  simp only [hno, Bool.not_false, Bool.true_and, Bool.and_eq_true, Bool.or_eq_true, decide_eq_true_eq, hmay, hw,
    and_self, true_and, Opens]

/-- R50: a partial word opens no pair. -/
theorem wordAt_partial_opens (hc : f.condition = .pair) (hw : w.bytes ≤ 3) (hcompared : f.compares w = true)
    (hmay : f.scope = .any ∨ p.words < 2) : (wordAt ctx w f p).1.openPair = false := by
  have hlate : ¬(f.scope = .first ∧ 2 ≤ p.words) := by
    rintro ⟨hf, h2⟩
    rcases hmay with h | h
    · rw [hf] at h; cases h
    · omega
  have hbytes : decide (w.bytes = 4) = false := decide_eq_false (by omega)
  rw [wordAt_pair hc hcompared]
  simp only [pairStep, hlate, if_false, hbytes, Bool.and_false, Bool.false_and]

/-- Two consecutive words of the list, of which the first opens a pair and the second closes it. -/
def PairIn (f : Slot) (words : List DataWord) : Prop :=
  ∃ i a b, words[i]? = some a ∧ words[i + 1]? = some b ∧ Opens f a ∧ Closes f b

theorem pairIn_cons : PairIn f (w :: rest) ↔ (Opens f w ∧ ∃ b, rest[0]? = some b ∧ Closes f b) ∨ PairIn f rest := by
  constructor
  · rintro ⟨i, a, b, ha, hb, hopens, hcloses⟩
    cases i with
    | zero =>
      cases ha
      exact .inl ⟨hopens, b, hb, hcloses⟩
    | succ i => exact .inr ⟨i, a, b, ha, hb, hopens, hcloses⟩
  · rintro (⟨hopens, b, hb, hcloses⟩ | ⟨i, a, b, ha, hb, hopens, hcloses⟩)
    · exact ⟨0, w, b, rfl, hb, hopens, hcloses⟩
    · exact ⟨i + 1, a, b, ha, hb, hopens, hcloses⟩

/-- Under ANY, a slot hits on a word that closes its open pair, or on a pair among the words. -/
theorem hitsAmong_pair_any (hc : f.condition = .pair) (hs : f.scope = .any) (words : List DataWord)
    (hwhole : ∀ w ∈ words.dropLast, w.bytes = 4) (hp : p.done = false) :
    hitsAmong ctx f p words = true ↔ f.frameMeets ctx = true ∧
      ((p.openPair = true ∧ ∃ b, words[0]? = some b ∧ Closes f b) ∨ PairIn f words) := by
  induction words generalizing p with
  | nil => simp [hitsAmong, PairIn]
  | cons w rest ih =>
    cases rest with
    | nil =>
      rw [hitsAmong_cons hp, wordAt_pairHit hc]
      simp [hitsAmong, hs, PairIn]
      tauto
    | cons v rest =>
      have hw : w.bytes = 4 := hwhole w (by simp)
      have hrest : ∀ u ∈ (v :: rest).dropLast, u.bytes = 4 := fun u hu => hwhole u (by simp [hu])
      rw [hitsAmong_cons hp, ih hrest ((wordAt_keepsDone ctx w f p).trans hp), pairIn_cons (w := w)]
      cases hhit : (wordAt ctx w f p).2 with
      | true =>
        obtain ⟨hopen, _, hmeets, hcloses⟩ := (wordAt_pairHit hc).mp hhit
        simp [hopen, hmeets, hcloses]
      | false =>
        have hno : ¬(p.openPair = true ∧ f.frameMeets ctx = true ∧ Closes f w) := fun ⟨h1, h2, h3⟩ => by
          rw [(wordAt_pairHit hc).mpr ⟨h1, .inl hs, h2, h3⟩] at hhit
          cases hhit
        rw [wordAt_pairOpens hc hw (.inl hs) hhit]
        simp only [Bool.false_eq_true, false_or, List.getElem?_cons_zero, Option.some.injEq, exists_eq_left']
        tauto

/-- Under FIRST, a slot that has compared two words hits no more. -/
theorem hitsAmong_pair_first (hc : f.condition = .pair) (hs : f.scope = .first) (words : List DataWord)
    (hp : p.done = false) (hwords : 2 ≤ p.words) : hitsAmong ctx f p words = false := by
  induction words generalizing p with
  | nil => rfl
  | cons w rest ih =>
    have hnext : 2 ≤ (wordAt ctx w f p).1.words := by
      cases hw : f.compares w with
      | false => simpa [wordAt_of_not_compares hw] using hwords
      | true => simp [wordAt, hw, hc, pairStep, hs, hwords]
    rw [Bool.eq_false_iff, ne_eq, hitsAmong_cons hp, wordAt_pairHit hc, ih ((wordAt_keepsDone ctx w f p).trans hp) hnext]
    simp [hs]
    omega

end

/-- Under FIRST, the first two words are the pair, or there is none. -/
theorem hitsAmong_pair_two {ctx : FrameContext} {f : Slot} {p : SlotProgress} {a b : DataWord}
    {rest : List DataWord} (hc : f.condition = .pair) (hs : f.scope = .first) (hp : p.done = false)
    (hwords : p.words = 0) (hclosed : p.openPair = false) (ha : a.bytes = 4)
    (hb : f.compares b = true ∨ rest = []) :
    hitsAmong ctx f p (a :: b :: rest) = true ↔ f.frameMeets ctx = true ∧ Opens f a ∧ Closes f b := by
  have hno : (wordAt ctx a f p).2 = false := by
    rw [Bool.eq_false_iff, ne_eq, wordAt_pairHit hc]
    simp [hclosed]
  have hfirst : (wordAt ctx a f p).1.words = 1 := by
    simp [wordAt, compares_of_whole ha, hc, pairStep, hwords]
  have hdone : (wordAt ctx a f p).1.done = false := (wordAt_keepsDone ctx a f p).trans hp
  have hlast : hitsAmong ctx f (wordAt ctx b f (wordAt ctx a f p).1).1 rest = false := by
    rcases hb with hb | rfl
    · refine hitsAmong_pair_first hc hs rest ((wordAt_keepsDone ctx b f _).trans hdone) ?_
      rw [wordAt_pair hc hb]
      simp [pairStep, hs, hfirst]
    · rfl
  rw [hitsAmong_cons hp, hitsAmong_cons hdone, wordAt_pairHit hc (w := b), wordAt_pairOpens hc ha (.inr hwords) hno,
    hlast, hno]
  simp only [hfirst, or_true, true_and, Bool.false_eq_true, false_or, or_false]
  tauto

/-- The words before the last one of a frame are whole. -/
theorem dropLast_whole {ws tail : List DataWord} (hws : ∀ w ∈ ws, w.bytes = 4) (htail : tail.length ≤ 1) :
    ∀ w ∈ (ws ++ tail).dropLast, w.bytes = 4 := by
  intro w hw
  cases tail with
  | nil => exact hws w (List.mem_of_mem_dropLast (by simpa using hw))
  | cons v rest =>
    obtain rfl : rest = [] := List.length_eq_zero_iff.mp (by simpa using htail)
    rw [List.dropLast_concat] at hw
    exact hws w hw

/-- Settles O34: under ANY by induction on the words, under FIRST by the first two alone. -/
theorem pairSlotHitsOnConsecutiveWords : Obligations.PairSlotHitsOnConsecutiveWords := by
  intro ctx f ws tail hc hws htail hbytes
  refine ⟨fun w hw p hcompared hmay => wordAt_partial_opens hc (hbytes w hw).2 hcompared hmay, fun hs => ?_,
    fun hs => ?_⟩
  · rw [hitsAmong_pair_any hc hs _ (dropLast_whole hws htail) fresh_done]
    simp only [Bool.false_eq_true, false_and, false_or, PairIn, Opens, Closes, and_assoc]
  · cases hwords : ws ++ tail with
    | nil => simp [hitsAmong]
    | cons a rest =>
      cases rest with
      | nil =>
        rw [hitsAmong_cons fresh_done, wordAt_pairHit hc]
        simp [hitsAmong]
      | cons b rest =>
        have ha : a.bytes = 4 := dropLast_whole hws htail a (by rw [hwords]; simp)
        have hb : f.compares b = true ∨ rest = [] := by
          cases rest with
          | nil => exact .inr rfl
          | cons c rest => exact .inl (compares_of_whole (dropLast_whole hws htail b (by rw [hwords]; simp)))
        rw [hitsAmong_pair_two hc hs fresh_done rfl rfl ha hb]
        simp only [Opens, Closes, and_assoc]
        constructor
        · rintro ⟨hmeets, h⟩
          exact ⟨hmeets, a, b, rest, rfl, h⟩
        · rintro ⟨hmeets, a', b', r, hcons, h⟩
          cases hcons
          exact ⟨hmeets, h⟩

end Sys2Proof.Machine
end

section
/-! Groups of hits, expiries, ticks, the chain lines and the judgements after a happening (R64, R65, R70, R71, R114 to
R117, R136, R141, R142, R145, R146, R148, R153, R154). -/

namespace Sys2Proof.Machine
open Sys2Proof

/-! ### Raising an event, as a change of the port alone -/

/-- The port once an event has been raised at a time (R167, R168). -/
def ServicePort.raised (sp : ServicePort) (e : Event) (now : Time) : ServicePort :=
  if e.enabled sp.mask then sp.place e now else sp

theorem raiseEvent_raised (e : Event) (s : State) : raiseEvent e s = { s with sp := s.sp.raised e s.tb.time } := by
  unfold raiseEvent ServicePort.raised
  split <;> rfl

/-! ### Groups (R64, R65) -/

theorem slotHits_pairwise : slotHits.Pairwise (· < ·) := by decide

theorem mem_slotHits (h : Fin 9) : h ∈ slotHits ↔ h.val < 8 := by revert h; decide

theorem mem_groupOrder (restart : BitVec 9) (g : BitVec 8) (h : Fin 9) :
    h ∈ groupOrder restart g ↔ g.getLsbD h.val = true := by
  simp only [groupOrder, List.mem_append, List.mem_filter, mem_slotHits, Bool.and_eq_true, Bool.not_eq_true']
  constructor
  · rintro (⟨_, hg, _⟩ | ⟨_, hg, _⟩) <;> exact hg
  · intro hg
    have hlt : h.val < 8 := BitVec.lt_of_getLsbD hg
    cases hr : restart.getLsbD h.val
    · exact .inr ⟨hlt, hg, rfl⟩
    · exact .inl ⟨hlt, hg, rfl⟩

/-- Restart hits come first, and each kind in slot number order. -/
theorem groupOrder_pairwise (restart : BitVec 9) (g : BitVec 8) : (groupOrder restart g).Pairwise fun a b =>
    (restart.getLsbD a.val = true ∧ restart.getLsbD b.val = false) ∨
      (restart.getLsbD a.val = restart.getLsbD b.val ∧ a < b) := by
  refine List.pairwise_append.mpr ⟨?_, ?_, ?_⟩
  · refine (slotHits_pairwise.filter _).imp_of_mem fun {a b} ha hb hlt => .inr ⟨?_, hlt⟩
    simp only [List.mem_filter, Bool.and_eq_true] at ha hb
    rw [ha.2.2, hb.2.2]
  · refine (slotHits_pairwise.filter _).imp_of_mem fun {a b} ha hb hlt => .inr ⟨?_, hlt⟩
    simp only [List.mem_filter, Bool.and_eq_true, Bool.not_eq_true'] at ha hb
    rw [ha.2.2, hb.2.2]
  · intro a ha b hb
    simp only [List.mem_filter, Bool.and_eq_true, Bool.not_eq_true'] at ha hb
    exact .inl ⟨ha.2.2, hb.2.2⟩

/-- With a restart hit in the group, the first hit taken is one. -/
theorem groupOrder_head {restart : BitVec 9} {g : BitVec 8} {h : Fin 9} (hg : g.getLsbD h.val = true)
    (hr : restart.getLsbD h.val = true) :
    ∃ x tail, groupOrder restart g = x :: tail ∧ restart.getLsbD x.val = true := by
  cases hfirst : slotHits.filter fun h => g.getLsbD h.val && restart.getLsbD h.val with
  | nil =>
    have hmem : h ∈ slotHits.filter fun h => g.getLsbD h.val && restart.getLsbD h.val :=
      List.mem_filter.mpr ⟨(mem_slotHits h).mpr (BitVec.lt_of_getLsbD hg), by rw [hg, hr]; rfl⟩
    rw [hfirst] at hmem
    cases hmem
  | cons x rest =>
    have hx : x ∈ slotHits.filter fun h => g.getLsbD h.val && restart.getLsbD h.val := by
      rw [hfirst]; exact List.mem_cons_self ..
    have hxr := (List.mem_filter.mp hx).2
    rw [Bool.and_eq_true] at hxr
    exact ⟨x, _, by rw [groupOrder, hfirst]; rfl, hxr.2⟩

/-- Settles O35: the order is the model's own, restart hits first. -/
theorem groupTakenRestartsFirst : Obligations.GroupTakenRestartsFirst := by
  refine ⟨fun start g s h => takeGroup_inert h g, fun start g s hw hlt => ?_⟩
  have htaken : takeGroup start g s = (groupOrder s.seq.current.restart g).foldl (fun t h => takeHit h t) s :=
    if_pos ⟨hw, hlt⟩
  refine ⟨_, htaken, mem_groupOrder _ g, groupOrder_pairwise _ g, ?_⟩
  rintro ⟨h, hg, hr⟩
  obtain ⟨x, tail, horder, hx⟩ := groupOrder_head hg hr
  rw [htaken, horder, List.foldl_cons, takeHit_of_restart hw hx]
  rfl

/-! ### Expiries (R70, R71) -/

theorem exec_stageTimeout_due {s : State} (h : s.seq.expired = true) :
    exec .stageTimeout s = .next (settle s (expireStage s)) := by
  simp only [exec, execStageTimeout, h, if_true, happening]

/-- Settles O37: the two actions, and the last stage in use. -/
theorem stageTimeoutActs : Obligations.StageTimeoutActs := by
  intro s
  refine ⟨fun h => ?_, fun ticks hw htimer hdue => ?_⟩
  · simp only [exec, execStageTimeout, h, Bool.false_eq_true, if_false]
  have hexpired : s.seq.expired = true := by simp [Sequencer.expired, hw, htimer, hdue]
  refine ⟨fun ha => ?_, fun ha k hk hlt => ?_, fun ha hlast => ?_⟩ <;> rw [exec_stageTimeout_due hexpired]
  · have hexpire : expireStage s = { raiseEvent (.stageTimeout s.seq.stage .restart) s with seq := s.seq.enter 0 } := by
      simp only [expireStage, ha, raiseEvent_seq]
    rw [hexpire, Sequencer.enter_of_watching hw, raiseEvent_raised]
    exact congrArg Host.Outcome.next (settle_of_same rfl rfl rfl rfl)
  · have hexpire : expireStage s = completeStage .timeout (raiseEvent (.stageTimeout s.seq.stage .advance) s) := by
      simp only [expireStage, ha]
    rw [hexpire, raiseEvent_raised, completeStage_of_below_last (by exact hw) (by exact hk) (by exact hlt)]
    exact congrArg Host.Outcome.next (settle_of_same rfl rfl rfl rfl)
  · have hexpire : expireStage s = completeStage .timeout (raiseEvent (.stageTimeout s.seq.stage .advance) s) := by
      simp only [expireStage, ha]
    rw [hexpire, completeStage_of_last (by rw [raiseEvent_seq]; exact hlast)]

/-! ### The judgements (R114, R136) -/

theorem judgeHold_none {s : State} (h : s.tm.episode = none) : judgeHold s =
    if holdConditions s = true ∧ s.tm.free < 72 then
      raiseEvent (.holdOn s.tm.free) { s with tm := { s.tm with episode := some { ticks := 0, violated := false } } }
    else s := by
  simp only [judgeHold, h, assertHold, Bool.and_eq_true, decide_eq_true_eq]

theorem judgeHold_some {s : State} {e : Episode} (h : s.tm.episode = some e) : judgeHold s =
    if holdConditions s = false then
      raiseEvent (.holdOff .ended (min 16777215 e.ticks)) { s with tm := { s.tm with episode := none } }
    else if 144 ≤ s.tm.free then
      raiseEvent (.holdOff .space (min 16777215 e.ticks)) { s with tm := { s.tm with episode := none } }
    else s := by
  simp only [judgeHold, h, releaseHold, Bool.not_eq_true']

theorem holdConditions_iff (s : State) : holdConditions s = true ↔
    (s.cc.state = .posttrig ∨ s.cc.state = .streaming) ∧ s.cc.setup.policy = .hold ∧ s.tm.holdSpent = false := by
  simp [holdConditions, and_assoc]

/-- Settles O42: what changed, and what each judgement does. -/
theorem judgementsFollowWhatChanged : Obligations.JudgementsFollowWhatChanged := by
  refine ⟨fun s t => ⟨settle_of_same, ?_, ?_, ?_⟩, fun s => ⟨?_, ?_, ?_⟩, fun s hold hhold => ?_⟩
  · intro hunread hfree hstate hspent
    simp only [settle, hunread, hfree, hstate, hspent, and_self, if_true, if_false]
  · intro hunread hchanged
    rw [settle, if_pos hunread, if_neg (by tauto)]
  · intro hunread hchanged
    rw [settle, if_neg hunread, if_neg (by tauto)]
  · intro h
    rw [judgeWatermark, if_pos h]
  · intro h hr
    simp only [judgeWatermark, h, hr, Bool.false_eq_true, if_false]
    by_cases hlt : s.unread < s.ru.watermark
    · rw [if_neg (Nat.not_le.mpr hlt), if_pos hlt]
    · rw [if_pos (Nat.not_lt.mp hlt), if_neg hlt]
  · intro h hr
    simp only [judgeWatermark, h, hr, if_false, if_true]
  · have hcond : hold = holdConditions s := by rw [Bool.eq_iff_iff, hhold, holdConditions_iff]
    rw [hcond]
    exact ⟨judgeHold_none, fun e => judgeHold_some⟩

/-! ### Ticks (R141, R142) -/

theorem countTo_below {limit n : Nat} (h : n < limit) : countTo limit n = n + 1 := if_pos h

theorem countTo_reached {limit n : Nat} (h : limit ≤ n) : countTo limit n = n := if_neg (Nat.not_lt.mpr h)

/-- Settles O43: each counter below its limit, at it, and stopped. -/
theorem tickAdvancesEveryCounter : Obligations.TickAdvancesEveryCounter := by
  intro s
  refine ⟨fun h => ?_, fun h => ⟨{ s with
    tap := s.tap.tick, seq := s.seq.tick
    tm := { s.tm with episode := s.tm.episode.map (Episode.tick s.cc.setup.holdLimit) }
    tb := s.tb.tick }, ?_, rfl, rfl, ?_, ?_, ?_, ?_, ?_, ?_, ?_, ?_, rfl, ?_, ?_, ?_, rfl, ?_, ?_, ?_⟩⟩
  · simp only [exec, execTimebaseTick, h, if_true]
  · simp only [exec, execTimebaseTick, h, Bool.false_eq_true, if_false]
  · intro n hn hlt
    simp only [Timebase.tick, hn, Option.map_some, countTo_below hlt]
  · intro n hn hle
    simp only [Timebase.tick, hn, Option.map_some, countTo_reached hle]
  · intro hn
    simp only [Timebase.tick, hn, Option.map_none]
  · intro p hp hlt
    simp only [Timebase.tick, hp, Option.map_some, countTo_below hlt]
  · intro p hp hle
    simp only [Timebase.tick, hp, Option.map_some, countTo_reached hle]
  · intro hp
    simp only [Timebase.tick, hp, Option.map_none]
  · intro ctx hb
    simp only [LinkTap.tick, hb, LinkTap.inFrame]
    rfl
  · intro hb
    unfold LinkTap.tick
    dsimp only
    split
    · next ctx h => exact absurd h (hb ctx)
    · rfl
  · intro n hn hlt
    simp only [Sequencer.tick, hn, Option.map_some, countTo_below hlt]
  · intro n hn hle
    simp only [Sequencer.tick, hn, Option.map_some, countTo_reached hle]
  · intro hn
    simp only [Sequencer.tick, hn, Option.map_none]
  · intro e he hfree hlimited
    have hlt : e.ticks < if s.cc.setup.holdLimit = 0 then Config.max24 else s.cc.setup.holdLimit := by
      split
      · next h0 => exact hfree h0
      · next h0 => exact hlimited h0
    simp only [he, Option.map_some, Episode.tick, countTo_below hlt]
  · intro e he hreached
    have hle : (if s.cc.setup.holdLimit = 0 then Config.max24 else s.cc.setup.holdLimit) ≤ e.ticks := by
      rcases hreached with ⟨h0, hle⟩ | ⟨h0, hle⟩
      · rw [if_pos h0]; exact hle
      · rw [if_neg h0]; exact hle
    simp only [he, Option.map_some, Episode.tick, countTo_reached hle]
  · intro he
    simp only [he, Option.map_none]

/-! ### Limits reached (R117, R146, R153) -/

/-- A happening that leaves the unread count, and a HOLD there is nothing to judge in. -/
theorem settle_of_judged {s t : State} (hunread : s.unread = t.unread) (hhold : judgeHold t = t) : settle s t = t := by
  unfold settle
  simp only [hunread, if_true, hhold, ite_self]

/-- R117: after an expiry HOLD is spent, so nothing is left to judge. -/
theorem expireHold_settled (e : Episode) (s : State) : settle s (expireHold e s) = expireHold e s := by
  refine settle_of_judged ?_ ?_
  · simp [State.unread, expireHold, releaseHold]
  · have hnone : (expireHold e s).tm.episode = none := by simp [expireHold, releaseHold]
    have hspent : (expireHold e s).tm.holdSpent = true := by simp [expireHold, releaseHold]
    have hcond : holdConditions (expireHold e s) = false := by simp [holdConditions, hspent]
    rw [judgeHold_none hnone, hcond]
    exact if_neg (by simp)

/-- Settles O44: due, and not due. -/
theorem limitsReachedAct : Obligations.LimitsReachedAct := by
  intro s
  refine ⟨fun e he hlimit hle => ?_, fun h => ?_, fun n hn hle => ?_, fun h => ?_, fun p hp hle => ?_, fun h => ?_⟩
  · have hexpiring : holdExpiring s = some e := by
      simp only [holdExpiring, he]
      exact if_pos ⟨hlimit, hle⟩
    simp only [exec, execHoldExpired, hexpiring, happening, expireHold_settled]
    simp only [expireHold, releaseHold, raiseEvent_tm]
  · have hexpiring : holdExpiring s = none := by
      unfold holdExpiring
      split
      · next e he => exact if_neg fun ⟨hne, hle⟩ => (h e he).elim hne (Nat.not_lt.mpr hle)
      · rfl
    simp only [exec, execHoldExpired, hexpiring]
  · simp only [exec, execSyncPulseEnd, hn]
    rw [if_pos hle]
  · unfold exec execSyncPulseEnd
    dsimp only
    split
    · next n hn => rw [if_neg (Nat.not_le.mpr (h n hn))]
    · rfl
  · simp only [exec, execXtPulseEnd, hp]
    rw [if_pos hle]
  · unfold exec execXtPulseEnd
    dsimp only
    split
    · next p hp => rw [if_neg (Nat.not_le.mpr (h p hp))]
    · rfl

/-! ### The chain lines (R148, R154) -/

/-- Settles O45: who takes an edge, and what a FOLLOWER does. -/
theorem chainEdgesAreTaken : Obligations.ChainEdgesAreTaken := by
  refine ⟨fun s z hz => ⟨fun h => ?_, fun hr hrole hstate => ?_, fun hr hrole hstate => ?_⟩,
    fun s => ⟨fun hr hin hp => ?_, fun h => ?_⟩⟩
  · have hno : (!s.inReset && decide (s.tb.role = .follower)) = false := by
      rcases h with h | h <;> simp [h]
    simp only [exec, execSyncEdge, hno, Bool.false_eq_true, if_false]
  · have hedge : takeSyncEdge s = raiseEvent (.syncSeen (s.tb.time.setWidth 32)) z := by
      subst hz
      simp only [takeSyncEdge, raiseEvent_cc]
      exact if_neg hstate
    have hdue : (!s.inReset && decide (s.tb.role = .follower)) = true := by simp [hr, hrole]
    simp only [exec, execSyncEdge, hdue, if_true, happening, hedge]
    rw [raiseEvent_raised, hz]
    exact congrArg Host.Outcome.next (settle_of_same rfl rfl rfl rfl)
  · have hedge : takeSyncEdge s = startSession (raiseEvent (.syncSeen (s.tb.time.setWidth 32)) z) := by
      subst hz
      simp only [takeSyncEdge, raiseEvent_cc]
      exact if_pos hstate
    have hdue : (!s.inReset && decide (s.tb.role = .follower)) = true := by simp [hr, hrole]
    simp only [exec, execSyncEdge, hdue, if_true, happening, hedge]
    rw [raiseEvent_raised, hz]
    rfl
  · simp only [exec, execXtEdge, hr, hin, hp, happening]
    rfl
  · have hno : (!s.inReset && s.tb.xtIn && s.tb.xtPulse.isNone) = false := by
      rcases h with h | h | h <;> simp [h]
      intro _ _
      exact Option.ne_none_iff_isSome.mp h
    simp only [exec, execXtEdge, hno, Bool.false_eq_true, if_false]

end Sys2Proof.Machine
end

section
/-! Offers to the Trace Memory, losses and completions: what is discarded, appended and counted (R94, R95, R97 to R99,
R103 to R111). -/

namespace Sys2Proof.Machine
open Sys2Proof

/-! ### Appends -/

/-- R150: only a FRAME record flagged TIME_RESET touches the timebase. -/
theorem appendRecord_tb_unflagged {r : Record} (h : r.flaggedTimeReset = false) (pre : Bool) (s : State) :
    (appendRecord r pre s).tb = s.tb := by
  simp [appendRecord, h]

/-- The GAP record of the pending loss run, as it is held; none with no run pending (R97). -/
def pendingGap (s : State) : List Held :=
  s.cc.loss.toList.map fun run => { id := s.tm.nextId, record := .gap run, pre := false }

/-- R97: the pending loss run's GAP record is appended and counted, and the run becomes absent. -/
theorem appendGap_eq (s : State) : appendGap s = { s with
    tm := { s.tm with
      trace := s.tm.trace ++ pendingGap s
      nextId := s.tm.nextId + s.cc.loss.toList.length, free := s.tm.free - gapUnits s }
    cc := { s.cc with loss := none, appended :=
        (if s.cc.loss = none then s.cc.appended else satAdd Config.max32 s.cc.appended 1) } } := by
  cases h : s.cc.loss with
  | none =>
    have hloss : { s.cc with loss := none } = s.cc := by rw [← h]
    simp [appendGap, h, pendingGap, gapUnits, hloss]
  | some run =>
    simp only [appendGap, h, pendingGap, gapUnits, appendRecord, Record.flaggedTimeReset, Bool.not_false, Bool.and_true]
    rfl

theorem satAdd_twice (max a : Nat) : satAdd max (satAdd max a 1) 1 = min max (a + 2) := by
  simp only [satAdd]
  omega

/-- R97, R103: a record appended after the pending GAP. -/
theorem appendAfterGap_eq (r : Record) (pre : Bool) (s : State) : appendRecord r pre (appendGap s) = { s with
    tm := { s.tm with
      trace := s.tm.trace ++ pendingGap s ++
        [{ id := s.tm.nextId + s.cc.loss.toList.length, record := r, pre := pre }]
      nextId := s.tm.nextId + s.cc.loss.toList.length + 1, free := s.tm.free - offerUnits r s }
    cc := { s.cc with
      loss := none, appended := min Config.max32 (s.cc.appended + (if s.cc.loss = none then 1 else 2)) }
    tb := { s.tb with timeReset := s.tb.timeReset && !r.flaggedTimeReset } } := by
  have happended : satAdd Config.max32 (if s.cc.loss = none then s.cc.appended else
      satAdd Config.max32 s.cc.appended 1) 1 =
        min Config.max32 (s.cc.appended + (if s.cc.loss = none then 1 else 2)) := by
    split
    · rfl
    · exact satAdd_twice _ _
  rw [appendGap_eq]
  simp only [appendRecord, happended, offerUnits_eq, Nat.sub_sub]

/-! ### Discards (R104, R106, R111) -/

/-- The `k` oldest records gone, with what R104 and R111 move; nothing where `k` is 0. -/
theorem discard_eq (k : Nat) (s : State) : (if k = 0 then s else discardOldest k s) = { s with
    tm := { s.tm with trace := s.tm.trace.drop k, free := s.tm.free + unitsOf (s.tm.trace.take k) }
    cc := { s.cc with preCount := s.cc.preCount - preRecords (s.tm.trace.take k) }
    ru := { s.ru with cursor := s.ru.cursor - k, mark := s.ru.mark.map fun m => m - k }
    sp := if s.ru.cursor < k then (raiseEvent (.cursorSkipped (k - s.ru.cursor)) s).sp else s.sp } := by
  split
  · next h =>
    subst h
    simp [unitsOf, preRecords]
  · unfold discardOldest
    split
    · simp only [raiseEvent_raised]
      rfl
    · rfl

theorem discardsForRoom_minimal {need free : Nat} {l : List Held} {j : Nat} (h : j < discardsForRoom need free l) :
    free + unitsOf (l.take j) < need := by
  induction l generalizing free j with
  | nil => exact absurd h (Nat.not_lt_zero j)
  | cons x rest ih =>
    unfold discardsForRoom at h
    split at h
    · exact absurd h (Nat.not_lt_zero j)
    · next hneed =>
      cases j with
      | zero => simpa [unitsOf] using hneed
      | succ j =>
        have := ih (j := j) (by omega) (free := free + x.record.units)
        rw [List.take_succ_cons, unitsOf_cons]
        omega

/-- Before the oldest pre-trigger record there is none. -/
theorem discardsForDepth_minimal {l : List Held} {j : Nat} (h : j < discardsForDepth l) :
    preRecords (l.take j) = 0 ∧ 1 ≤ preRecords l := by
  unfold discardsForDepth at h
  split at h
  · next i hi =>
    obtain ⟨hlt, hpre, hbefore⟩ := List.findIdx?_eq_some_iff_getElem.1 hi
    constructor
    · unfold preRecords
      rw [List.countP_eq_zero]
      intro x hx
      obtain ⟨m, hm, rfl⟩ := List.mem_take_iff_getElem.mp hx
      exact hbefore m (by omega)
    · exact List.countP_pos_iff.2 ⟨l[i], List.getElem_mem hlt, hpre⟩
  · exact absurd h (Nat.not_lt_zero j)

/-- Whether the oldest `j` records can go for the offer: they leave room, and hold a pre-trigger record where the
accounting requires one (R106). -/
def Suffices (units : Nat) (forDepth : Bool) (tm : TraceMemory) (j : Nat) : Prop :=
  units ≤ tm.free + unitsOf (tm.trace.take j) ∧
    (forDepth = true → 1 ≤ preRecords tm.trace → 1 ≤ preRecords (tm.trace.take j))

theorem unitsOf_take_add (l : List Held) (a b : Nat) :
    unitsOf (l.take (a + b)) = unitsOf (l.take a) + unitsOf ((l.drop a).take b) := by
  rw [List.take_add, unitsOf_append]

/-- Fewer discards than required do not suffice (R106). -/
theorem requiredDiscards_minimal {units : Nat} {forDepth : Bool} {tm : TraceMemory} {j : Nat}
    (h : j < requiredDiscards units forDepth tm) : ¬Suffices units forDepth tm j := by
  rintro ⟨hroom, hdepth⟩
  unfold requiredDiscards at h
  dsimp only at h
  by_cases hfirst : j < if forDepth then discardsForDepth tm.trace else 0
  · split at hfirst
    · next hd =>
      obtain ⟨hnone, hsome⟩ := discardsForDepth_minimal hfirst
      have := hdepth hd hsome
      omega
    · omega
  · generalize (if forDepth then discardsForDepth tm.trace else 0) = first at h hfirst
    obtain ⟨i, rfl⟩ := Nat.exists_eq_add_of_le (Nat.not_lt.mp hfirst)
    have := discardsForRoom_minimal (need := units) (free := tm.free + unitsOf (tm.trace.take first))
      (l := tm.trace.drop first) (j := i) (by omega)
    rw [unitsOf_take_add] at hroom
    omega

/-- The discards required suffice, or every record is gone (R106). -/
theorem requiredDiscards_suffice (units : Nat) (forDepth : Bool) (tm : TraceMemory) :
    Suffices units forDepth tm (requiredDiscards units forDepth tm) ∨
      requiredDiscards units forDepth tm = tm.trace.length := by
  have hdepth : forDepth = true → 1 ≤ preRecords tm.trace →
      1 ≤ preRecords (tm.trace.take (requiredDiscards units forDepth tm)) := by
    intro hd hsome
    refine discardsForDepth_takes hsome ?_
    simp only [requiredDiscards, hd, if_true]
    exact Nat.le_add_right _ _
  have hle : (if forDepth then discardsForDepth tm.trace else 0) ≤ tm.trace.length := by
    split
    · exact discardsForDepth_le _
    · exact Nat.zero_le _
  unfold Suffices
  by_cases hroom : units ≤ tm.free + unitsOf (tm.trace.take (requiredDiscards units forDepth tm))
  · exact .inl ⟨hroom, hdepth⟩
  · refine .inr ?_
    unfold requiredDiscards at hroom ⊢
    dsimp only at hroom ⊢
    generalize (if forDepth then discardsForDepth tm.trace else 0) = first at hroom hle ⊢
    rw [unitsOf_take_add] at hroom
    rcases discardsForRoom_spec units (tm.free + unitsOf (tm.trace.take first)) (tm.trace.drop first) with hc | hc
    · omega
    · rw [hc, List.length_drop]
      omega

/-- R106: the discards required are the fewest that suffice. -/
theorem requiredDiscards_eq {units : Nat} {forDepth : Bool} {tm : TraceMemory} {k : Nat} (hk : k ≤ tm.trace.length)
    (hsuffices : Suffices units forDepth tm k) (hfewest : ∀ j < k, ¬Suffices units forDepth tm j) :
    requiredDiscards units forDepth tm = k := by
  rcases Nat.lt_trichotomy (requiredDiscards units forDepth tm) k with hlt | heq | hgt
  · rcases requiredDiscards_suffice units forDepth tm with h | h
    · exact absurd h (hfewest _ hlt)
    · omega
  · exact heq
  · exact absurd hsuffices (requiredDiscards_minimal hgt)

end Sys2Proof.Machine
end

section
/-! How offers are decided in each storing state, and the completion of a session (R93 to R95, R97 to R99, R105 to
R110). -/

namespace Sys2Proof.Machine
open Sys2Proof

/-! ### A granted offer -/

/-- R97, R103, R104, R106: a granted offer, spelled. -/
theorem grantOffer_eq (r : Record) (pre : Bool) (k : Nat) (s : State) : grantOffer r pre k s = { s with
    tm := { s.tm with
      trace := s.tm.trace.drop k ++ pendingGap s ++
        [{ id := s.tm.nextId + s.cc.loss.toList.length, record := r, pre := pre }]
      nextId := s.tm.nextId + s.cc.loss.toList.length + 1
      free := s.tm.free + unitsOf (s.tm.trace.take k) - offerUnits r s }
    cc := { s.cc with
      loss := none, appended := min Config.max32 (s.cc.appended + (if s.cc.loss = none then 1 else 2))
      preCount := s.cc.preCount - preRecords (s.tm.trace.take k) + (if pre then 1 else 0) }
    ru := { s.ru with cursor := s.ru.cursor - k, mark := s.ru.mark.map fun m => m - k }
    tb := { s.tb with timeReset := s.tb.timeReset && !r.flaggedTimeReset }
    sp := if s.ru.cursor < k then (raiseEvent (.cursorSkipped (k - s.ru.cursor)) s).sp else s.sp } := by
  rw [grantOffer, discard_eq, appendAfterGap_eq]
  rfl

/-- Without discards the cursor, the mark and the pre-trigger records stay. -/
theorem grantOffer_direct (r : Record) (s : State) : grantOffer r false 0 s = { s with
    tm := { s.tm with
      trace := s.tm.trace ++ pendingGap s ++
        [{ id := s.tm.nextId + s.cc.loss.toList.length, record := r, pre := false }]
      nextId := s.tm.nextId + s.cc.loss.toList.length + 1, free := s.tm.free - offerUnits r s }
    cc := { s.cc with
      loss := none, appended := min Config.max32 (s.cc.appended + (if s.cc.loss = none then 1 else 2)) }
    tb := { s.tb with timeReset := s.tb.timeReset && !r.flaggedTimeReset } } := by
  simp [grantOffer, appendAfterGap_eq]

theorem pendingGap_records (s : State) : (pendingGap s).map Held.record = s.cc.loss.toList.map Record.gap := by
  simp [pendingGap, Function.comp_def]

/-! ### PRETRIG (R94, R106) -/

/-- In PRETRIG an offer is granted after the discards it requires, unless the mark is among them. -/
theorem offer_pretrig {r : Record} {pre : Bool} {s : State} {k : Nat} (hstate : s.cc.state = .pretrig)
    (hk : requiredDiscards (offerUnits r s) (pre && decide (s.cc.setup.depth ≤ s.cc.preCount)) s.tm = k) :
    offer r pre s =
      if ∃ m, s.ru.mark = some m ∧ m < k then (false, s) else (true, grantOffer r pre k s) := by
  simp only [offer, judgeOffer, hstate, hk]
  cases hm : s.ru.mark with
  | none => simp
  | some m => by_cases h : m < k <;> simp [h]

/-- Settles O39: the discards required are the fewest; the mark decides; the grant is spelled. -/
theorem pretrigOfferDiscardsTheFewest : Obligations.PretrigOfferDiscardsTheFewest := by
  intro r pre s k hs hstate hunits hk hroom hdepth hfewest
  have hrequired : requiredDiscards (offerUnits r s) (pre && decide (s.cc.setup.depth ≤ s.cc.preCount)) s.tm = k := by
    refine requiredDiscards_eq hk ⟨hroom, fun hd hsome => ?_⟩ fun j hj => ?_
    · rw [Bool.and_eq_true, decide_eq_true_eq] at hd
      exact hdepth hd.1 hd.2 hsome
    · rintro ⟨hr, hd⟩
      rcases hfewest j hj with h | ⟨hpre, hp, hsome, hnone⟩
      · omega
      · have := hd (by rw [hpre, decide_eq_true hp]; rfl) hsome
        omega
  have hoffer := offer_pretrig hstate hrequired
  refine ⟨fun hmark => by rw [hoffer, if_pos hmark], fun hmark => ?_, fun hmark hpos => ?_⟩
  · have hgranted : ¬∃ m, s.ru.mark = some m ∧ m < k := fun ⟨m, hm, hlt⟩ => Nat.not_lt.mpr (hmark m hm) hlt
    rw [hoffer, if_neg hgranted, grantOffer_eq]
    exact ⟨_, rfl, pendingGap s, _, rfl, pendingGap_records s, rfl, rfl, rfl, rfl, rfl, rfl⟩
  · obtain ⟨m, hm⟩ := Option.ne_none_iff_exists'.mp hmark
    obtain ⟨_, _, _, _, hzero, _, _⟩ := hs
    rw [hoffer, if_pos ⟨m, hm, by rw [(hzero m hm).1]; exact hpos⟩]

/-! ### POSTTRIG and STREAMING (R95, R105, R107 to R109) -/

/-- In POSTTRIG and STREAMING an offer is granted exactly if it fits. -/
theorem offer_direct {s : State} (hstate : s.cc.state = .posttrig ∨ s.cc.state = .streaming) (r : Record) :
    offer r false s = if offerUnits r s ≤ s.tm.free then (true, grantOffer r false 0 s) else (false, s) := by
  rcases hstate with h | h <;> simp only [offer, judgeOffer, h] <;> split <;> simp_all

theorem refusedForRoom_eq (s : State) :
    refusedForRoom s = if s.cc.setup.policy = .stop then completeSession .full s else s := rfl

/-- R98: a refused frame opens or extends the loss run. -/
theorem loseFrame_eq (n : BitVec 16) (time : Time) (s : State) : loseFrame n time s =
    raiseEvent (.recordsLost 1)
      { s with cc := { s.cc with
        lost := satAdd Config.max32 s.cc.lost 1
        loss := some (match s.cc.loss with
          | none => { number := n, startTime := time, count := 1 }
          | some run => { run with count := satAdd Config.max32 run.count 1 }) } } := by
  unfold loseFrame
  cases s.cc.loss <;> rfl

/-- Settles O40: the direct states, then the granted offers, then PRETRIG. -/
theorem frameOffersAreDecided : Obligations.FrameOffersAreDecided := by
  intro r trigger s lost hlost
  have hlose : loseFrame r.number r.startTime s = lost := by
    rw [hlost]
    exact (loseFrame_eq _ _ s).trans (by cases s.cc.loss <;> rfl)
  refine ⟨fun hstate => ⟨fun x => ?_, fun x t h => ?_, fun h => ?_⟩, fun t h => ⟨fun hstate => ?_, ?_⟩, ?_⟩
  · rw [offer_direct hstate]
    split
    · next hfits => exact (decide_eq_true hfits).symm
    · next hfits => exact (decide_eq_false hfits).symm
  · rw [offer_direct hstate] at h
    split at h
    · obtain rfl := (Prod.mk.inj h).2
      rw [grantOffer_direct]
      simp [pendingGap_records]
    · cases h
  · have hrefused : offer (.frame r) false s = (false, s) := by
      rw [offer_direct hstate, if_neg (Nat.not_le.mpr h)]
    have hpolicy : lost.cc.setup = s.cc.setup := by rw [hlost, raiseEvent_cc]
    rw [← hpolicy, ← refusedForRoom_eq, ← hlose]
    rcases hstate with hst | hst <;>
      simp only [offerFrame, hst, hrefused, Bool.false_eq_true, if_false]
  · simp only [offerFrame, hstate, h, if_true]
  · intro k u hstate hk hu
    have hcounts : t.cc.postCount = s.cc.postCount ∧ t.cc.setup = s.cc.setup := by
      rw [offer_direct (.inl hstate)] at h
      split at h
      · obtain rfl := (Prod.mk.inj h).2
        rw [grantOffer_direct]
        exact ⟨rfl, rfl⟩
      · cases h
    have hcount : countPost t = if k = s.cc.setup.post then completeSession .count u else u := by
      subst hu hk
      simp only [countPost, hcounts.1, hcounts.2]
      rfl
    simp only [offerFrame, hstate, h, if_true, hcount]
  · intro v hstate hv
    have hsetup : v.cc.setup = s.cc.setup := by
      rw [hv]
      split
      · exact (offer_quiet (.frame r) (!trigger) s).setup
      · rw [hlost, raiseEvent_cc]
    have hrefused : ¬(offer (.frame r) (!trigger) s).1 = true → (offer (.frame r) (!trigger) s).2 = s := by
      unfold offer
      split
      · intro h; exact absurd rfl h
      · intro _; rfl
    have hdecided : (if (offer (.frame r) (!trigger) s).1 = true then (offer (.frame r) (!trigger) s).2
        else loseFrame r.number r.startTime (offer (.frame r) (!trigger) s).2) = v := by
      rw [hv]
      split
      · rfl
      · next h => rw [hrefused h, hlose]
    have hoffer : offerFrame r trigger s = if trigger then triggerPlaced v else v := by
      rw [← hdecided]
      simp only [offerFrame, hstate]
    refine ⟨fun ht => ?_, fun ht => ?_⟩
    · rw [hoffer, ht]; rfl
    · rw [hoffer, ht, if_pos rfl, triggerPlaced, hsetup]

/-! ### Completion (R99, R110) -/

theorem completionGap_eq (s : State) : completionGap s =
    if 4 ≤ s.tm.free then appendGap s else { s with cc := { s.cc with loss := none } } := rfl

/-- R99, R110: the GAP of the pending run is appended, or there is none to append. -/
theorem completionGap_cases (s : State) :
    (∃ run, s.cc.loss = some run ∧ 4 ≤ s.tm.free ∧ completionGap s = { s with
      tm := { s.tm with
        trace := s.tm.trace ++ [{ id := s.tm.nextId, record := .gap run, pre := false }]
        nextId := s.tm.nextId + 1, free := s.tm.free - 4 }
      cc := { s.cc with loss := none, appended := satAdd Config.max32 s.cc.appended 1 } }) ∨
    ((s.cc.loss = none ∨ s.tm.free < 4) ∧ completionGap s = { s with cc := { s.cc with loss := none } }) := by
  rw [completionGap_eq]
  split
  · next hfree =>
    cases h : s.cc.loss with
    | none => exact .inr ⟨.inl rfl, by simp [appendGap_eq, h, pendingGap, gapUnits]⟩
    | some run => exact .inl ⟨run, rfl, hfree, by simp [appendGap_eq, h, pendingGap, gapUnits]⟩
  · next hfree => exact .inr ⟨.inr (Nat.not_le.mp hfree), rfl⟩

/-- R63, R99: the completion after its GAP. -/
theorem completeSession_eq {cause : Cause} {s left : State} (h : completionGap { s with cc := s.cc.leaveFrame } = left) :
    completeSession cause s = { left with
      cc := { left.cc with state := .complete cause }
      sp := left.sp.raised (.sessionComplete cause) left.tb.time
      seq := left.seq.toIdle } := by
  subst h
  simp only [completeSession, raiseEvent_raised]

/-- Settles O41: with the GAP, or without it. -/
theorem completionSteps : Obligations.CompletionSteps := by
  intro cause s
  refine ⟨_, rfl, ?_⟩
  rw [raiseEvent_raised]
  rcases completionGap_cases { s with cc := s.cc.leaveFrame } with ⟨run, hloss, hfree, h⟩ | ⟨hno, h⟩ <;>
    rw [completeSession_eq h]
  · refine ⟨rfl, rfl, rfl, rfl, rfl, rfl, rfl, rfl, rfl, rfl, fun r hr _ => ?_, fun hor => ?_, rfl, rfl, rfl, rfl⟩
    · obtain rfl := Option.some.inj (hr.symm.trans hloss)
      exact ⟨rfl, rfl⟩
    · rcases hor with hn | hlt
      · cases hn.symm.trans hloss
      · exact absurd hfree (Nat.not_le.mpr hlt)
  · refine ⟨rfl, rfl, rfl, rfl, rfl, rfl, rfl, rfl, rfl, rfl, fun r hr hfree => ?_, fun _ => ⟨rfl, rfl⟩,
      rfl, rfl, rfl, rfl⟩
    rcases hno with hn | hlt
    · cases hn.symm.trans hr
    · exact absurd hfree (Nat.not_le.mpr hlt)

end Sys2Proof.Machine
end

section
/-! The declaration of a trigger: its five steps, with the MARKER granted, after a GAP, or refused (R74, R75, R91 to R93,
R97, R98, R109, R153). -/

namespace Sys2Proof.Machine
open Sys2Proof

/-! ### The last two steps: the XT pulse and the sequencer's move -/

/-- The XT pulse after a declaration: begun, or its count back to 0 (R153). -/
def pulseAfter (tb : Timebase) : Option XtPulse :=
  if tb.xtOut then
    some { ticks := 0, length := match tb.xtPulse with
      | none => tb.xtLen
      | some p => p.length }
  else tb.xtPulse

theorem pulseXt_eq (s : State) : pulseXt s = { s with tb := { s.tb with xtPulse := pulseAfter s.tb } } := by
  unfold pulseXt pulseAfter
  split
  · cases s.tb.xtPulse <;> rfl
  · rfl

/-- The sequencer after a declaration in WATCHING: entered again, or TRIGGERED (R75). -/
def sequencerAfter (setup : Setup) (q : Sequencer) : Sequencer :=
  if setup.mode = .stream ∧ setup.repeating = true then
    { q with stage := 0, occ := 0, timer := if (q.stages.get 0).timeout = 0 then none else some 0 }
  else { q with state := .triggered, occ := 0, timer := none }

theorem postTrigger_watching {s : State} (h : s.seq.state = .watching) :
    postTrigger s = { s with seq := sequencerAfter s.cc.setup s.seq } := by
  have hne : s.seq.state ≠ .idle := by rw [h]; decide
  unfold postTrigger sequencerAfter
  rw [if_neg hne]
  split
  · rw [Sequencer.enter_of_watching h]
  · rfl

theorem postTrigger_idle {s : State} (h : s.seq.state = .idle) : postTrigger s = s := if_pos h

/-! ### The first three steps -/

/-- The trigger counted and TRIGGERED raised (R74). -/
def triggerRaised (src : TriggerSource) (s : State) : State :=
  raiseEvent (.triggered src (min 65535 (s.seq.trigCount + 1)))
    { s with seq := { s.seq with trigCount := min 65535 (s.seq.trigCount + 1) } }

theorem declareTrigger_eq (src : TriggerSource) (s : State) :
    declareTrigger src s = postTrigger (pulseXt (placeTrigger src (triggerRaised src s))) := rfl

/-- A trigger placed without an end of the session: XT pulses, and the sequencer moves on. -/
theorem declareTrigger_placed {src : TriggerSource} {s x : State} (hw : s.seq.state = .watching)
    (hx : placeTrigger src (triggerRaised src s) = x) (hseq : x.seq = (triggerRaised src s).seq)
    (hsetup : x.cc.setup = s.cc.setup) (htb : x.tb = s.tb) :
    declareTrigger src s = { x with
      tb := { x.tb with xtPulse := pulseAfter s.tb }
      seq := sequencerAfter s.cc.setup { s.seq with trigCount := min 65535 (s.seq.trigCount + 1) } } := by
  have hraised : (triggerRaised src s).seq = { s.seq with trigCount := min 65535 (s.seq.trigCount + 1) } := by
    simp only [triggerRaised, raiseEvent_seq]
  rw [declareTrigger_eq, hx, pulseXt_eq, htb]
  rw [postTrigger_watching (by rw [hseq, hraised]; exact hw)]
  rw [hsetup, hseq, hraised]

/-- A trigger whose placing has ended the session: XT pulses, and the sequencer stays IDLE (log 16). -/
theorem declareTrigger_ended {src : TriggerSource} {s x : State} (hx : placeTrigger src (triggerRaised src s) = x)
    (hidle : x.seq.state = .idle) (htb : x.tb = s.tb) :
    declareTrigger src s = { x with tb := { x.tb with xtPulse := pulseAfter s.tb } } := by
  rw [declareTrigger_eq, hx, pulseXt_eq, htb]
  exact postTrigger_idle hidle

/-! ### Placing the trigger (R92) -/

theorem placeTrigger_member {src : TriggerSource} {s : State} {f : CurrentFrame} (hf : s.cc.current = some f)
    (hm : f.member = true) :
    placeTrigger src s = { s with cc := { s.cc with current := some { f with pending := true } } } := by
  simp only [placeTrigger, hf, hm, if_true]

theorem placeTrigger_between {src : TriggerSource} {s : State}
    (h : ∀ f, s.cc.current = some f → f.member = false) : placeTrigger src s = offerMarker src s := by
  unfold placeTrigger
  split
  · next f hf => simp only [h f hf, Bool.false_eq_true, if_false]
  · rfl

/-- The MARKER of a trigger declared now (R91). -/
def markerNow (src : TriggerSource) (s : State) : Record := .marker s.cc.nextFrame s.tb.time src.markerCause

/-- R91, R109: in STREAMING the MARKER is appended if it fits, after a pending GAP, or refused. -/
theorem offerMarker_streaming {src : TriggerSource} {s : State} (hstate : s.cc.state = .streaming) :
    offerMarker src s =
      if offerUnits (markerNow src s) s ≤ s.tm.free then grantOffer (markerNow src s) false 0 s
      else refusedForRoom s := by
  have hoffer := offer_direct (.inr hstate) (markerNow src s)
  simp only [offerMarker, hstate]
  rw [show Record.marker s.cc.nextFrame s.tb.time src.markerCause = markerNow src s from rfl, hoffer]
  split <;> rfl

theorem offerMarker_pretrig {src : TriggerSource} {s : State} (hstate : s.cc.state = .pretrig) :
    offerMarker src s = triggerPlaced (offer (markerNow src s) false s).2 := by
  simp only [offerMarker, hstate]
  rfl

/-- An offer of a record that is not flagged TIME_RESET leaves the timebase. -/
theorem offer_tb {r : Record} (h : r.flaggedTimeReset = false) (pre : Bool) (s : State) :
    (offer r pre s).2.tb = s.tb := by
  unfold offer
  split
  · next k _ =>
    rw [grantOffer_eq, h]
    simp
  · rfl

theorem completeSession_tb (cause : Cause) (s : State) : (completeSession cause s).tb = s.tb := by
  obtain ⟨t, ht, _, _, _, _, _, _, htb, _⟩ := completionSteps cause s
  exact ht ▸ htb

theorem markerUnits (src : TriggerSource) (s : State) :
    offerUnits (markerNow src s) s = if s.cc.loss = none then 4 else 8 := by
  unfold offerUnits markerNow
  cases s.cc.loss <;> rfl

/-- A MARKER granted without discards, after a pending GAP (R97, R103). -/
theorem grantMarker_eq (src : TriggerSource) (s : State) : grantOffer (markerNow src s) false 0 s = { s with
    tm := { s.tm with
      trace := s.tm.trace ++ pendingGap s ++
        [{ id := s.tm.nextId + s.cc.loss.toList.length, record := markerNow src s, pre := false }]
      nextId := s.tm.nextId + s.cc.loss.toList.length + 1
      free := s.tm.free - (if s.cc.loss = none then 4 else 8) }
    cc := { s.cc with
      loss := none, appended := min Config.max32 (s.cc.appended + (if s.cc.loss = none then 1 else 2)) } } := by
  have hflag : (markerNow src s).flaggedTimeReset = false := rfl
  rw [grantOffer_direct, markerUnits, hflag, Bool.not_false, Bool.and_true]

/-- Settles O38: on a member frame; between frames of STREAMING with room, or with none; in PRETRIG. -/
theorem triggerDeclarationSteps : Obligations.TriggerDeclarationSteps := by
  intro src s r n q pulse cause hw hn hr hq hpulse hcause
  have hraised : r = triggerRaised src s := by rw [hr, hn]; rfl
  have hqa : q = sequencerAfter s.cc.setup { s.seq with trigCount := min 65535 (s.seq.trigCount + 1) } := by
    rw [hq, hn]; rfl
  have hpa : pulse = pulseAfter s.tb := by
    rw [hpulse]
    unfold pulseAfter
    cases s.tb.xtPulse <;> rfl
  have hcc : r.cc = s.cc := by rw [hr, raiseEvent_cc]
  have htb : r.tb = s.tb := by rw [hr, raiseEvent_tb]
  have htm : r.tm = s.tm := by rw [hr, raiseEvent_tm]
  have hmarker : markerNow src r = .marker s.cc.nextFrame s.tb.time cause := by
    rw [markerNow, hcc, htb, hcause]
    cases src <;> rfl
  have hbetween : (∀ f, s.cc.current = some f → f.member = false) → placeTrigger src r = offerMarker src r :=
    fun h => placeTrigger_between (by rw [hcc]; exact h)
  subst hqa hpa
  rw [hraised] at hcc htb htm hmarker hbetween ⊢
  have hsetup := congrArg Capture.setup hcc
  refine ⟨fun f hf hm => ?_, fun hm hst hloss hfits => ?_, fun run hm hst hloss hfits => ?_,
    fun hm hst hfull => ?_, fun u v hm hst hu => ?_⟩
  · rw [declareTrigger_placed hw (placeTrigger_member (by rw [hcc]; exact hf) hm) rfl hsetup htb]
    simp only [hcc, htb]
  · have hplaced := (hbetween hm).trans (offerMarker_streaming (by rw [hcc]; exact hst))
    rw [markerUnits, hcc, htm, if_pos (by rw [if_pos hloss]; exact hfits), grantMarker_eq] at hplaced
    rw [declareTrigger_placed hw hplaced rfl hsetup htb]
    simp only [hcc, htb, htm, hmarker, pendingGap, hloss, if_true, Option.toList_none, List.map_nil, List.append_nil,
      List.length_nil, Nat.add_zero]
    rfl
  · have hsome : ¬s.cc.loss = none := by rw [hloss]; exact Option.some_ne_none run
    have hplaced := (hbetween hm).trans (offerMarker_streaming (by rw [hcc]; exact hst))
    rw [markerUnits, hcc, htm, if_pos (by rw [if_neg hsome]; exact hfits), grantMarker_eq] at hplaced
    rw [declareTrigger_placed hw hplaced rfl hsetup htb]
    simp only [hcc, htb, htm, hmarker, pendingGap, hloss, Option.toList_some, List.map_cons, List.map_nil,
      List.append_assoc, List.cons_append, List.nil_append, List.length_singleton, reduceCtorEq, if_false]
  · have hplaced := (hbetween hm).trans (offerMarker_streaming (by rw [hcc]; exact hst))
    rw [markerUnits, hcc, htm, if_neg (Nat.not_le.mpr hfull), refusedForRoom_eq, hsetup] at hplaced
    refine ⟨fun hpolicy => ?_, fun u hpolicy hu => ?_⟩
    · rw [if_neg hpolicy] at hplaced
      rw [declareTrigger_placed hw hplaced rfl hsetup htb, htb]
    · rw [if_pos hpolicy, ← hu] at hplaced
      have hidle : u.seq.state = .idle := by rw [hu, (completeSession_session _ _).1]; rfl
      have hut : u.tb = s.tb := by rw [hu, completeSession_tb, htb]
      exact ⟨by rw [declareTrigger_ended hplaced hidle hut], hidle⟩
  · have hplaced := (hbetween hm).trans (offerMarker_pretrig (by rw [hcc]; exact hst))
    rw [hmarker, ← hu] at hplaced
    have hus : u.cc.setup = s.cc.setup := by
      rw [hu, (offer_quiet _ _ _).setup, hsetup]
    have hut : u.tb = s.tb := by rw [hu, offer_tb rfl, htb]
    refine ⟨fun hpost hv => ?_, fun hpost => ?_⟩
    · rw [triggerPlaced, if_pos (by rw [hus]; exact hpost), ← hv] at hplaced
      have hidle : v.seq.state = .idle := by rw [hv, (completeSession_session _ _).1]; rfl
      have hvt : v.tb = s.tb := by rw [hv, completeSession_tb, hut]
      exact ⟨by rw [declareTrigger_ended hplaced hidle hvt], hidle⟩
    · rw [triggerPlaced, if_neg (by rw [hus]; exact hpost)] at hplaced
      have huq : u.seq = (triggerRaised src s).seq := by rw [hu, (offer_session _ _ _).1]
      rw [declareTrigger_placed hw hplaced huq hus hut]

end Sys2Proof.Machine
end

section
/-! Where an event is placed in the queue, and what the commands that end in a trigger, a completion, a loss or a
judgement leave as it was (R12, R74, R99, R114, R136, R167, R168, R172). -/

namespace Sys2Proof.Machine
open Sys2Proof

/-! ### Placing an event (R168) -/

/-- The first held entry of a kind takes the addition, in its place. -/
theorem addInto_first {kind : Event → Bool} {pre post : List Entry} {x : Entry}
    (hpre : ∀ y ∈ pre, kind y.event = false) (hx : kind x.event = true) (n : Nat) :
    Machine.addInto kind n (pre ++ x :: post) = pre ++ { x with event := x.event.plus n } :: post := by
  induction pre with
  | nil => simp only [List.nil_append, addInto, hx, if_true]
  | cons y pre ih =>
    have hy : kind y.event = false := hpre y (List.mem_cons_self ..)
    simp only [List.cons_append, addInto, hy, Bool.false_eq_true, if_false]
    rw [ih fun z hz => hpre z (List.mem_cons_of_mem _ hz)]

/-- R172: an addition into the head of the queue is noted for the entry in flight, the first time. -/
theorem noteAdded_first {kind : Event → Bool} {pre post : List Entry} {x : Entry}
    (hpre : ∀ y ∈ pre, kind y.event = false) (hx : kind x.event = true) (now : Time)
    (flight : Option EventInFlight) :
    noteAdded kind now (pre ++ x :: post) flight =
      if pre = [] then flight.map fun f => { f with addedAt := some (f.addedAt.getD now) } else flight := by
  cases flight with
  | none => cases pre <;> rfl
  | some f =>
    cases pre with
    | nil =>
      obtain ⟨copied, addedAt⟩ := f
      cases addedAt <;> simp [noteAdded, hx]
    | cons y pre =>
      have hy : kind y.event = false := hpre y (List.mem_cons_self ..)
      simp [noteAdded, hy]

/-- An addition into a held entry, spelled. -/
theorem addInto_detail {kind : Event → Bool} {s : State} {pre post : List Entry} {x : Entry}
    (hqueue : s.sp.queue = pre ++ x :: post) (hpre : ∀ y ∈ pre, kind y.event = false) (hx : kind x.event = true)
    (n : Nat) : { s with sp := s.sp.addInto kind n s.tb.time } =
      detailAdded s pre { x with event := x.event.plus n } post := by
  simp only [ServicePort.addInto, detailAdded, hqueue, addInto_first hpre hx, noteAdded_first hpre hx]

theorem holds_iff (sp : ServicePort) (kind : Event → Bool) :
    sp.holds kind = true ↔ ∃ x ∈ sp.queue, kind x.event = true := by
  simp [ServicePort.holds]

theorem holds_first {kind : Event → Bool} {sp : ServicePort} {pre post : List Entry} {x : Entry}
    (hqueue : sp.queue = pre ++ x :: post) (hx : kind x.event = true) : sp.holds kind = true :=
  (holds_iff sp kind).mpr ⟨x, by rw [hqueue]; simp, hx⟩

/-- The third to fifth cases, where no entry of the event's own kind is held. -/
theorem place_unheld {e : Event} {sp : ServicePort} (h : ¬ownKindHeld e sp.queue) (now : Time) :
    sp.place e now = sp.enqueue e now := by
  simp only [ownKindHeld, ← holds_iff, not_or, not_and, Bool.not_eq_true] at h
  obtain ⟨hlost, hskipped, hwatermark⟩ := h
  cases e
  case recordsLost n => simp only [ServicePort.place, hlost rfl, Bool.false_eq_true, if_false]
  case cursorSkipped n => simp only [ServicePort.place, hskipped rfl, Bool.false_eq_true, if_false]
  case watermark n => simp only [ServicePort.place, hwatermark rfl, Bool.false_eq_true, if_false]
  all_goals rfl

theorem raiseEvent_enabled {e : Event} {s : State} (h : e.enabled s.sp.mask = true) :
    raiseEvent e s = { s with sp := s.sp.place e s.tb.time } := if_pos h

/-- Settles O46: the enable bits, then the five cases. -/
theorem eventPlacedByFirstCase : Obligations.EventPlacedByFirstCase := by
  refine ⟨fun e mask => by cases e <;> rfl, fun e s => ⟨fun h => if_neg (ne_true_of_eq_false h), fun h => ?_⟩⟩
  rw [raiseEvent_enabled h]
  refine ⟨fun n k time pre post he hqueue hpre => ?_, fun n k time pre post he hqueue hpre => ?_,
    fun hkind hheld => ?_, fun hno => ⟨fun k time pre post hqueue hpre => ?_, fun hnone => ⟨fun hfull => ?_,
      fun hroom => ?_⟩⟩⟩
  · subst he
    simp only [ServicePort.place, holds_first (kind := Event.isRecordsLost) hqueue rfl, if_true]
    exact addInto_detail hqueue hpre rfl n
  · subst he
    simp only [ServicePort.place, holds_first (kind := Event.isCursorSkipped) hqueue rfl, if_true]
    exact addInto_detail hqueue hpre rfl n
  · cases e
    case watermark n => simp only [ServicePort.place, (holds_iff s.sp Event.isWatermark).mpr hheld, if_true]
    all_goals cases hkind
  · rw [place_unheld hno]
    simp only [ServicePort.enqueue, holds_first (kind := Event.isEventsLost) hqueue rfl, if_true]
    exact addInto_detail hqueue hpre rfl 1
  all_goals
    have hlost : s.sp.holds Event.isEventsLost = false := by
      rw [Bool.eq_false_iff, ne_eq, holds_iff]
      rintro ⟨x, hx, hkind⟩
      rw [hnone x hx] at hkind
      cases hkind
    rw [place_unheld hno]
    unfold ServicePort.enqueue
  · rw [if_neg (by rw [hlost]; exact Bool.false_ne_true), if_pos (by rw [hfull])]
  · rw [if_neg (by rw [hlost]; exact Bool.false_ne_true), if_neg (Nat.not_le.mpr hroom)]

/-! ### What is left as it was -/

theorem takeCommand_leaves {i : Instr} {judge : State → Reply × State} {s : State} (h : Quiet s (judge s).2) :
    ∃ u, Quiet s u ∧ (takeCommand i judge s = u ∨ ∃ r, takeCommand i judge s = setReply r (lastByteOf i) u) := by
  unfold takeCommand
  split
  · exact ⟨_, h, .inr ⟨_, rfl⟩⟩
  · exact ⟨s, .refl s, .inl rfl⟩

/-- `t` is `s`, beside what `Quiet` allows, the boundary state and the evaluation in progress. -/
def QuietButFrame (s t : State) : Prop :=
  ∃ b ev, Quiet { s with tap := { s.tap with boundary := b }, mu := { s.mu with eval := ev } } t

/-- The two sides may change the evaluation in progress alike. -/
theorem Quiet.withEval {s t : State} (h : Quiet s t) (ev : Option Evaluation) :
    Quiet { s with mu := { s.mu with eval := ev } } { t with mu := { t.mu with eval := ev } } :=
  { h with mu := congrArg (fun m => { m with eval := ev }) h.mu }

theorem evaluate_quietButFrame (point : Slot → SlotProgress → SlotProgress × Bool) {s t : State}
    (h : QuietButFrame s t) : QuietButFrame s (evaluate point t) := by
  obtain ⟨b, ev, hq⟩ := h
  obtain heq | ⟨e, _, he⟩ := evaluate_spec point t
  · rw [heq]; exact ⟨b, ev, hq⟩
  · exact ⟨b, some (e.after point), (hq.withEval (some (e.after point))).trans he⟩

/-- R8: a pulse changes the frame context and the evaluation. -/
theorem takePulse_quietButFrame (l : LinkLanes) (ctx : FrameContext) (s : State) :
    QuietButFrame s (takePulse l ctx s) :=
  takePulse_keeps (P := QuietButFrame s) (fun c _ => ⟨.inFrame c, s.mu.eval, .refl _⟩)
    fun point _ h => evaluate_quietButFrame point h

/-- R12, R180: a frame's end closes the context and the evaluation, and the tally counts it. -/
theorem endFrame_quiet (ctx : FrameContext) (s : State) :
    Quiet { s with
      tap := { s.tap with boundary := .idle }
      mu := { s.mu with eval := none }
      tally := s.tally.takeFrame (ctx.closed s.tb.timeReset) } (endFrame ctx s) := by
  obtain ⟨m, e, hm, he, h⟩ := endFrame_eq ctx s
  obtain ⟨b, ev, hmatched⟩ : QuietButFrame s m := hm ▸ matchFrameEnd_keeps (P := QuietButFrame s)
    ⟨s.tap.boundary, s.mu.eval, .refl s⟩ fun point _ ht => evaluate_quietButFrame point ht
  have hended := he ▸ (hmatched.withEval none).trans (captureFrameEnd_quiet _ m.mu.hitSet _)
  rw [h]
  exact { hended with
    tap := congrArg (fun tap => { tap with boundary := .idle }) hended.tap
    tally := congrArg (Tally.takeFrame · (ctx.closed s.tb.timeReset)) hended.tally }

/-- Settles O47: the counters' rows, the service commands, the end of a frame, a pulse. -/
theorem commandsLeaveTheRest : Obligations.CommandsLeaveTheRest := by
  intro i s t h
  refine ⟨?_, ?_, ?_, ?_⟩
  · rintro (rfl | rfl | rfl) <;> cases h
    · split
      · exact happening_quiet (expireStage_quiet s)
      · exact .refl s
    · split
      · exact happening_quiet (expireHold_quiet _ s)
      · exact .refl s
    · split
      · exact happening_quiet (takeHit_quiet 8 s)
      · exact .refl s
  · rintro (rfl | rfl | rfl | rfl | rfl | ⟨n, rfl⟩) <;> cases h <;> refine takeCommand_leaves ?_
    · unfold judgeForceTrigger
      split
      · exact happening_quiet (declareTrigger_quiet .forced s)
      · exact .refl s
    · unfold judgeStop
      split
      · exact happening_quiet (completeSession_quiet .stopped s)
      · exact .refl s
    · unfold judgeClearTrace
      split
      · exact .refl s
      · exact happening_quiet (emptyTrace_quiet s)
    · unfold judgeRewind
      split
      · exact .refl s
      · exact happening_quiet (rewindTo_quiet _ s)
    · unfold judgeRelease
      split
      · exact .refl s
      · exact happening_quiet (releaseMark_quiet s)
    · unfold judgeSkipRecords
      split
      · exact .refl s
      · exact happening_quiet (skipRecords_quiet _ s)
  · rintro n ctx rfl hsel hb
    rw [exec_closing_select hsel hb] at h
    cases h
    exact (endFrame_quiet ctx { s with hSel := 0 }).trans (settle_quiet _ _)
  · rintro k rfl
    have hpulse : QuietButFrame { s with lanes := k.lanes, hClk := k.clock } t := by
      cases h
      split
      · split
        · obtain ⟨b, ev, hq⟩ := takePulse_quietButFrame k.lanes _ (drivePins k s)
          exact ⟨b, ev, hq.trans (settle_quiet _ _)⟩
        · exact ⟨s.tap.boundary, s.mu.eval, .refl _⟩
      · exact ⟨s.tap.boundary, s.mu.eval, .refl _⟩
    obtain ⟨b, ev, hq⟩ := hpulse
    rw [show t.tap.boundary = b from congrArg LinkTap.boundary hq.tap,
      show t.mu.eval = ev from congrArg MatchUnit.eval hq.mu]
    exact hq

end Sys2Proof.Machine
end

section
/-! The rows of the service frame, whole bytes and bit by bit (R156 to R158, R160 to R163, R176, R193). -/

namespace Sys2Proof.Machine
open Sys2Proof

/-! ### One transition of the service lines -/

section
variable {s : State} {k : ServiceLine}

theorem edge_rising (hlow : s.sLine.clock = false) (hhigh : k.clock = true) {sp : ServicePort}
    (h : s.sp.rising k.data = some sp) : takeServiceEdge k s = { s with sLine := k, sp := sp } := by
  simp only [takeServiceEdge, hlow, hhigh, and_self, if_true, h]

theorem edge_rising_other (hlow : s.sLine.clock = false) (hhigh : k.clock = true)
    (h : s.sp.rising k.data = none) : takeServiceEdge k s = s := by
  simp only [takeServiceEdge, hlow, hhigh, and_self, if_true, h]

theorem edge_falling (hhigh : s.sLine.clock = true) (hlow : k.clock = false) :
    takeServiceEdge k s = { s with sLine := k, sp := s.sp.falling } := by
  simp [takeServiceEdge, hhigh, hlow]

theorem edge_level (h : k.clock = s.sLine.clock) : takeServiceEdge k s = { s with sLine := k } := by
  unfold takeServiceEdge
  rw [h]
  cases s.sLine.clock <;> simp

end

/-! ### Rising and falling, by the phase of the frame -/

section
variable {sp : ServicePort} {d : Bool}

theorem rising_command_bit {bytes : List Byte} (hf : sp.frame = .command bytes) (hlen : sp.bits.length < 7) :
    sp.rising d = some { sp with bits := sp.bits ++ [d] } := by
  simp only [ServicePort.rising, hf, hlen, if_true]

theorem rising_command_byte {bytes : List Byte} (hf : sp.frame = .command bytes) (hlen : sp.bits.length = 7) :
    sp.rising d = (collectByte bytes (bitsByte (sp.bits ++ [d]))).map fun more =>
      { sp with frame := .command more, bits := [] } := by
  have hlt : ¬sp.bits.length < 7 := by omega
  simp only [ServicePort.rising, hf, hlt, if_false]
  cases collectByte bytes (bitsByte (sp.bits ++ [d])) <;> rfl

theorem rising_reply_bit (hf : sp.frame = .reply) (hlen : sp.bits.length < 7) :
    sp.rising d = some { sp with bits := sp.bits ++ [d], byteAt := sp.byteBegun } := by
  simp only [ServicePort.rising, hf, hlen, if_true]

theorem rising_reply_pending (hf : sp.frame = .reply) (hlen : sp.bits.length = 7) (hat : sp.byteAt = none) :
    sp.rising d = some sp.pendingByteSent := by
  have hlt : ¬sp.bits.length < 7 := by omega
  have hbits : sp.bits ≠ [] := fun h => by rw [h] at hlen; simp at hlen
  have hbegun : sp.byteBegun = none := by simp [ServicePort.byteBegun, hbits, hat]
  simp only [ServicePort.rising, hf, hlt, if_false, hbegun]

theorem rising_reply_byte {j : Nat} (hf : sp.frame = .reply) (hlen : sp.bits.length = 7) (hat : sp.byteAt = some j) :
    sp.rising d =
      if j + 1 < sp.replyBytes.length then some { sp with bits := [], byteAt := some (j + 1) } else none := by
  have hlt : ¬sp.bits.length < 7 := by omega
  have hbegun : sp.byteBegun = some j := by simp [ServicePort.byteBegun, hat]
  simp only [ServicePort.rising, hf, hlt, if_false, hbegun]

/-- With S_SEL negated, in RESET, in TRAILER and in IGNORING a rising edge takes nothing. -/
theorem rising_elsewhere (hc : ∀ bytes, sp.frame ≠ .command bytes) (hr : sp.frame ≠ .reply) :
    sp.rising d = some sp := by
  unfold ServicePort.rising
  split
  · next bytes hf => exact absurd hf (hc bytes)
  · next hf => exact absurd hf hr
  · rfl

theorem falling_released (h : sp.frame = .reset ∨ sp.frame = .noFrame) : sp.falling = sp := by
  rcases h with h | h <;> simp only [ServicePort.falling, h]

theorem falling_driven (hreset : sp.frame ≠ .reset) (hframe : sp.frame ≠ .noFrame) :
    sp.falling = { sp with out := sp.outByte.getLsbD (7 - sp.bits.length) } := by
  unfold ServicePort.falling
  split
  · next h => exact absurd h hreset
  · next h => exact absurd h hframe
  · rfl

/-- R158, R163, R177: outside the reply phase S_DO stands at the bits of 0xFF. -/
theorem falling_ones (h : (∃ bytes, sp.frame = .command bytes) ∨ sp.frame = .trailer ∨ sp.frame = .ignoring) :
    sp.falling = { sp with out := true } := by
  have hne : sp.frame ≠ .reset ∧ sp.frame ≠ .noFrame ∧ sp.frame ≠ .reply := by
    rcases h with ⟨bytes, h⟩ | h | h <;> rw [h] <;> exact ⟨nofun, nofun, nofun⟩
  rw [falling_driven hne.1 hne.2.1, outByte_of_ones hne.2.2]

end

/-! ### Bytes collected in COMMAND (R157, R158) -/

theorem collectByte_code {b : Byte} {n : Nat} (h : commandArgs b = some n) (hn : 1 ≤ n) :
    collectByte [] b = some [b] := by
  simp only [collectByte, h, hn, if_true]

theorem collectByte_argument {code b : Byte} {args : List Byte} {n : Nat} (h : commandArgs code = some n)
    (hn : args.length + 1 < n) : collectByte (code :: args) b = some (code :: args ++ [b]) := by
  simp only [collectByte, h, hn, if_true]

/-- The bytes that no row of ARGUMENT BYTE takes. -/
theorem collectByte_none {bytes : List Byte} {b : Byte}
    (h : (bytes = [] ∧ (commandArgs b = none ∨ commandArgs b = some 0)) ∨
      ∃ code args n, bytes = code :: args ∧ commandArgs code = some n ∧ n ≤ args.length + 1) :
    collectByte bytes b = none := by
  rcases h with ⟨rfl, h | h⟩ | ⟨code, args, n, rfl, h, hn⟩
  · simp only [collectByte, h]
  · simp [collectByte, h]
  · simp only [collectByte, h, Nat.not_lt.mpr hn, if_false]

/-- A whole byte that is collected (log 29). -/
theorem exec_byte_collected {s : State} {b : Byte} {bytes more : List Byte} (hf : s.sp.frame = .command bytes)
    (hbits : s.sp.bits <+: byteBits b) (h : collectByte bytes b = some more) :
    exec (.argumentByte (.byte b)) s =
      .next { s with sLine := lineAfter b, sp := { s.sp with frame := .command more, bits := [] } } := by
  simp only [exec, execArgumentByte, hf, h, hbits, if_true]

/-- A whole byte that no row awaits. -/
theorem exec_byte_ignored {s : State} {b : Byte}
    (h : ∀ bytes, s.sp.frame = .command bytes → s.sp.bits <+: byteBits b → collectByte bytes b = none) :
    exec (.argumentByte (.byte b)) s = .next s := by
  unfold exec execArgumentByte
  dsimp only
  split
  · next bytes hf =>
    split
    · next more hm =>
      split
      · next hbits => cases (h bytes hf hbits).symm.trans hm
      · rfl
    · rfl
  · rfl

/-! ### A byte clocked bit by bit -/

theorem afterEdges_cons (k : ServiceLine) (rest : List ServiceLine) (s : State) :
    afterEdges (k :: rest) s = afterEdges rest (takeServiceEdge k s) := rfl

/-- R156: in COMMAND, with S_DO at its 1s, S_CLK falls or stays low with S_DI at the next bit, and nothing else moves. -/
theorem edge_low_command {s : State} {bytes : List Byte} (hf : s.sp.frame = .command bytes) (hout : s.sp.out = true)
    (d : Bool) :
    takeServiceEdge { clock := false, data := d } s = { s with sLine := { clock := false, data := d } } := by
  cases hc : s.sLine.clock with
  | true =>
    have hsp : { s.sp with out := true } = s.sp := by rw [← hout]
    rw [edge_falling hc rfl, falling_ones (.inl ⟨bytes, hf⟩), hsp]
  | false => rw [edge_level hc.symm]

/-- A byte's remaining bits, clocked one by one, collect it as the whole byte does (R156, R158). -/
theorem afterEdges_command {s : State} {bytes more : List Byte} {rest : List Bool}
    (hf : s.sp.frame = .command bytes) (hout : s.sp.out = true) (hlen : s.sp.bits.length + rest.length = 8)
    (hrest : rest ≠ []) (h : collectByte bytes (bitsByte (s.sp.bits ++ rest)) = some more) :
    afterEdges (clockedBits rest) s = { s with
      sLine := { clock := true, data := rest.getLast hrest }
      sp := { s.sp with frame := .command more, bits := [] } } := by
  induction rest generalizing s with
  | nil => exact absurd rfl hrest
  | cons d rest ih =>
    have hpair : afterEdges (clockedBits (d :: rest)) s = afterEdges (clockedBits rest)
        (takeServiceEdge { clock := true, data := d } { s with sLine := { clock := false, data := d } }) := by
      rw [← edge_low_command hf hout d]
      rfl
    rw [hpair]
    cases rest with
    | nil =>
      have hrising := rising_command_byte (d := d) hf (by simpa using hlen)
      rw [h, Option.map_some] at hrising
      rw [edge_rising (s := { s with sLine := { clock := false, data := d } }) rfl rfl hrising]
      rfl
    | cons e rest =>
      have hrising := rising_command_bit (d := d) hf (by simp only [List.length_cons] at hlen; omega)
      rw [edge_rising (s := { s with sLine := { clock := false, data := d } }) rfl rfl hrising]
      rw [ih (s := { s with sLine := { clock := true, data := d }, sp := { s.sp with bits := s.sp.bits ++ [d] } }) hf hout
        (by simp only [List.length_append, List.length_cons, List.length_nil] at hlen ⊢; omega)
        (List.cons_ne_nil e rest) (by rw [← h, List.append_assoc]; rfl)]
      rfl

end Sys2Proof.Machine
end

section
/-! What S_DO carries and each row of the service frame; an unknown command code (R156 to R163, R193). -/

namespace Sys2Proof.Machine
open Sys2Proof

/-! ### The frame's own rows (R157) -/

theorem sDo_released {s : State} (h : s.sp.frame = .reset ∨ s.sp.frame = .noFrame) :
    s.sDo = .released ∧ s.sDoPin = none := by
  rcases h with h | h <;> simp only [State.sDo, State.sDoPin, h, and_self]

theorem sDoPin_driven {s : State} (hreset : s.sp.frame ≠ .reset) (hframe : s.sp.frame ≠ .noFrame) :
    s.sDoPin = some s.sp.out := by
  unfold State.sDoPin
  split
  · next h => exact absurd h hreset
  · next h => exact absurd h hframe
  · rfl

/-- The rows of S_SEL and REPLY READY. -/
theorem frameRows (s : State) :
    (s.sSel = true → exec .sSelAsserted s = .next s) ∧
    (s.sSel = false → s.sp.frame = .noFrame → exec .sSelAsserted s = .next
      { s with
        sSel := true
        sp := { s.sp with frame := .command [], bits := [], byteAt := none, out := true } }) ∧
    (s.sSel = false → s.sp.frame ≠ .noFrame → exec .sSelAsserted s = .next { s with sSel := true }) ∧
    (s.sSel = false → exec .sSelNegated s = .next s) ∧
    (s.sSel = true → s.sp.frame = .reset → exec .sSelNegated s = .next { s with sSel := false }) ∧
    (s.sSel = true → s.sp.frame = .reply → exec .sSelNegated s = .next
      { s with
        sSel := false
        sp := { s.sp with
          frame := .noFrame, reply := none, ready := false, inFlight := none, bits := [], byteAt := none
          pendingSent := 0 }
        ru := { s.ru with inFlight := none } }) ∧
    (s.sSel = true → s.sp.frame ≠ .reset → s.sp.frame ≠ .reply → exec .sSelNegated s = .next
      { s with
        sSel := false
        sp := { s.sp with frame := .noFrame, bits := [], byteAt := none, pendingSent := 0 } }) ∧
    (s.sp.frame = .reply → exec .replyReady s = .next { s with sp := { s.sp with ready := true } }) ∧
    (s.sp.frame ≠ .reply → exec .replyReady s = .next s) := by
  refine ⟨fun h => ?_, fun h hf => ?_, fun h hf => ?_, fun h => ?_, fun h hf => ?_, fun h hf => ?_,
    fun h hr hf => ?_, fun hf => ?_, fun hf => ?_⟩
  · simp only [exec, execSSelAsserted, h, if_true]
  · simp only [exec, execSSelAsserted, h, Bool.false_eq_true, if_false, hf, if_true]
  · simp only [exec, execSSelAsserted, h, Bool.false_eq_true, if_false, hf]
  · simp only [exec, execSSelNegated, h, Bool.false_eq_true, if_false]
  · simp only [exec, execSSelNegated, h, if_true, hf]
  · simp only [exec, execSSelNegated, h, if_true, hf]
    rfl
  · unfold exec execSSelNegated
    rw [h, if_pos rfl]
    dsimp only
    split
    · next h1 => exact absurd h1 hr
    · next h1 => exact absurd h1 hf
    · rfl
  · simp only [exec, execReplyReady, hf, if_true]
  · simp only [exec, execReplyReady, hf, if_false]

/-! ### Bytes in COMMAND -/

theorem exec_edge {s t : State} {k : ServiceLine} (h : takeServiceEdge k s = t) :
    exec (.argumentByte (.edge k)) s = .next t := congrArg Host.Outcome.next h

/-- A byte whose row had an effect was collected. -/
theorem exec_byte_moved {s t : State} {b : Byte} (h : exec (.argumentByte (.byte b)) s = .next t)
    (hmoved : t.sp.frame ≠ s.sp.frame) : ∃ bytes more, s.sp.frame = .command bytes ∧ collectByte bytes b = some more ∧
      s.sp.bits <+: byteBits b := by
  by_contra hnone
  rw [exec_byte_ignored fun bytes hf hbits => by
    cases hc : collectByte bytes b with
    | none => rfl
    | some more => exact absurd ⟨bytes, more, hf, hc, hbits⟩ hnone] at h
  cases h
  exact hmoved rfl

/-- Log 29: a whole byte is the run of the bits still to come. -/
theorem exec_byte_clocked {s t : State} {b : Byte} {rest : List Bool} (hout : s.sp.out = true)
    (hlen : s.sp.bits.length < 8) (hsent : s.sp.bits ++ rest = byteBits b)
    (h : exec (.argumentByte (.byte b)) s = .next t) (hmoved : t.sp.frame ≠ s.sp.frame) :
    t = afterEdges (clockedBits rest) s := by
  obtain ⟨bytes, more, hf, hc, hbits⟩ := exec_byte_moved h hmoved
  have hlength : s.sp.bits.length + rest.length = 8 := by rw [← List.length_append, hsent]; rfl
  have hrest : rest ≠ [] := by rintro rfl; simp at hlength; omega
  have hlast : rest.getLast hrest = b.getLsbD 0 := by
    have hend := List.getLast_append_of_ne_nil (l := s.sp.bits) (by simp [hrest]) hrest
    rw [← hend]
    simp only [hsent]
    rfl
  rw [exec_byte_collected hf hbits hc] at h
  cases h
  rw [afterEdges_command hf hout hlength hrest (by rw [hsent, bitsByte_byteBits]; exact hc), hlast]
  rfl

/-- Log 29: the eighth bit's edge is the whole byte. -/
theorem exec_edge_eighth {s : State} {k : ServiceLine} {b : Byte} {bytes : List Byte} (hlow : s.sLine.clock = false)
    (hhigh : k.clock = true) (hf : s.sp.frame = .command bytes) (hsent : s.sp.bits ++ [k.data] = byteBits b) :
    exec (.argumentByte (.edge k)) s = exec (.argumentByte (.byte b)) s := by
  have hlen : s.sp.bits.length = 7 := by
    have := congrArg List.length hsent
    simpa using this
  have hk : k = lineAfter b := by
    have hlast : k.data = b.getLsbD 0 := by
      have := congrArg (fun l => l.getLastD false) hsent
      simpa [byteBits] using this
    obtain ⟨clock, data⟩ := k
    cases hhigh
    cases hlast
    rfl
  have hbits : s.sp.bits <+: byteBits b := ⟨[k.data], hsent⟩
  have hrising := rising_command_byte (d := k.data) hf hlen
  rw [hsent, bitsByte_byteBits] at hrising
  cases hc : collectByte bytes b with
  | none =>
    rw [hc] at hrising
    rw [exec_byte_ignored fun bytes' hf' _ => by rw [hf] at hf'; cases hf'; exact hc]
    exact exec_edge (edge_rising_other hlow hhigh hrising)
  | some more =>
    rw [hc] at hrising
    rw [exec_byte_collected hf hbits hc, ← hk]
    exact exec_edge (edge_rising hlow hhigh hrising)

/-! ### What a reply sends (R161) -/

theorem replyBytes_eq {sp : ServicePort} {r : Reply} (h : sp.reply = some r) : sp.replyBytes = r.bytes := by
  simp only [ServicePort.replyBytes, h]

theorem Reply.bytes_cons (r : Reply) :
    r.bytes = 0x5A :: byte r.status.code :: beBytes 2 r.payload.length ++ r.payload := rfl

theorem outByte_of_byteAt {sp : ServicePort} {j : Nat} {b : Byte} (hf : sp.frame = .reply) (hat : sp.byteAt = some j)
    (hb : sp.replyBytes[j]? = some b) : sp.outByte = b := by
  simp only [ServicePort.outByte, hf, hat, List.getD_eq_getElem?_getD, hb, Option.getD_some]

/-- The edges within a byte of the reply. -/
theorem exec_edge_reply {s : State} {j : Nat} {b : Byte} (hf : s.sp.frame = .reply) (hat : s.sp.byteAt = some j)
    (hb : s.sp.replyBytes[j]? = some b) (k : ServiceLine) :
    (s.sLine.clock = true → k.clock = false → s.sp.bits.length < 8 →
      exec (.argumentByte (.edge k)) s = .next
        { s with sLine := k, sp := { s.sp with out := b.getLsbD (7 - s.sp.bits.length) } }) ∧
    (s.sLine.clock = false → k.clock = true → s.sp.bits.length = 7 →
      (j + 1 < s.sp.replyBytes.length → exec (.argumentByte (.edge k)) s = .next
        { s with sLine := k, sp := { s.sp with bits := [], byteAt := some (j + 1) } }) ∧
      (j + 1 = s.sp.replyBytes.length → exec (.argumentByte (.edge k)) s = .next s)) := by
  refine ⟨fun hhigh hlow _ => ?_, fun hlow hhigh hlen => ⟨fun hmore => ?_, fun hlast => ?_⟩⟩
  · have hfall := falling_driven (sp := s.sp) (by rw [hf]; nofun) (by rw [hf]; nofun)
    rw [outByte_of_byteAt hf hat hb] at hfall
    exact exec_edge (by rw [edge_falling hhigh hlow, hfall])
  · have hrise := rising_reply_byte (d := k.data) hf hlen hat
    rw [if_pos hmore] at hrise
    exact exec_edge (edge_rising hlow hhigh hrise)
  · have hrise := rising_reply_byte (d := k.data) hf hlen hat
    rw [if_neg (by omega)] at hrise
    exact exec_edge (edge_rising_other hlow hhigh hrise)

/-- Settles O48: the rows of the frame, the bytes of COMMAND, the edges by phase, the bytes of a reply. -/
theorem serviceFrameRows : Obligations.ServiceFrameRows := by
  refine ⟨fun s => ?_, fun s b sent hsent => ?_, fun s k => ?_, fun s r sent hf hr hsent => ?_⟩
  · obtain ⟨h1, h2, h3, h4, h5, h6, h7, h8, h9⟩ := frameRows s
    refine ⟨h1, h2, h3, h4, h5, h6, h7, h8, h9, sDo_released, sDoPin_driven, ?_⟩
    rintro (⟨bytes, h⟩ | h | h) <;> simp only [State.sDo, h]
  · have hbyte : byteBits b = sent := hsent.symm
    rw [← hbyte]
    refine ⟨fun n hbits hf hn h1 => exec_byte_collected hf hbits (collectByte_code hn h1),
      fun code args n hbits hf hn hlt => exec_byte_collected hf hbits (collectByte_argument hn hlt), fun h => ?_,
      fun rest t hout hlen hrest h hmoved => exec_byte_clocked hout hlen hrest h hmoved, ?_⟩
    · refine exec_byte_ignored fun bytes hf hbits => ?_
      rcases h with h | h | ⟨hempty, h⟩ | ⟨code, args, n, hcode, hn, hle⟩
      · exact absurd hbits h
      · exact absurd hf (h bytes)
      · rw [hempty] at hf
        cases hf
        exact collectByte_none (.inl ⟨rfl, h⟩)
      · rw [hcode] at hf
        cases hf
        exact collectByte_none (.inr ⟨code, args, n, rfl, hn, hle⟩)
    · rintro k hlow hhigh ⟨bytes, hf⟩ hlast
      exact exec_edge_eighth hlow hhigh hf hlast
  · refine ⟨fun h => exec_edge ?_, fun hhigh hlow => ⟨fun h => exec_edge ?_, fun hf hat => exec_edge ?_⟩,
      fun hlow hhigh => ⟨fun bytes hf hlen => exec_edge ?_, fun h => exec_edge ?_, fun hf hlen =>
        ⟨fun hbits hat hready => exec_edge ?_, fun h => exec_edge ?_⟩, fun hf hlen hat =>
          ⟨fun hmore => exec_edge ?_, fun hlast => exec_edge ?_⟩⟩⟩
    · by_cases hk : k.clock = s.sLine.clock
      · exact edge_level hk
      · have hout : s.sp.frame = .reset ∨ s.sp.frame = .noFrame := by tauto
        cases hc : s.sLine.clock with
        | false =>
          have hk' : k.clock = true := by rw [hc] at hk; simpa using hk
          refine edge_rising hc hk' (rising_elsewhere ?_ ?_) <;> rcases hout with h | h <;> rw [h] <;> nofun
        | true =>
          have hk' : k.clock = false := by rw [hc] at hk; simpa using hk
          rw [edge_falling hc hk', falling_released hout]
    · rw [edge_falling hhigh hlow, falling_ones h]
    · have hfall := falling_driven (sp := s.sp) (by rw [hf]; nofun) (by rw [hf]; nofun)
      have hpending : s.sp.outByte.getLsbD (7 - s.sp.bits.length) = false := by
        simp [ServicePort.outByte, hf, hat]
      rw [edge_falling hhigh hlow, hfall, hpending]
    · exact edge_rising hlow hhigh (rising_command_bit hf hlen)
    · refine edge_rising hlow hhigh (rising_elsewhere ?_ ?_) <;> rcases h with h | h <;> rw [h] <;> nofun
    · have hbegun : s.sp.byteBegun = some 0 := by simp [ServicePort.byteBegun, hbits, hat, hready]
      have hrise := rising_reply_bit (d := k.data) hf hlen
      rw [hbegun, hbits] at hrise
      exact edge_rising hlow hhigh hrise
    · have hbegun : s.sp.byteBegun = s.sp.byteAt := by
        unfold ServicePort.byteBegun
        rw [if_neg (by rintro ⟨h1, h2, h3⟩; rcases h with h | h | h; exacts [h h1, h h2, by rw [h] at h3; cases h3])]
      have hrise := rising_reply_bit (d := k.data) hf hlen
      rw [hbegun] at hrise
      exact edge_rising hlow hhigh hrise
    · have hcount : (s.sp.ready || decide (Config.maxPendingBytes ≤ s.sp.pendingSent + 1)) = s.sp.ready := by
        rw [decide_eq_false (Nat.not_le.mpr hmore), Bool.or_false]
      rw [edge_rising hlow hhigh (rising_reply_pending hf hlen hat), ServicePort.pendingByteSent, hcount]
    · have hcount : (s.sp.ready || decide (Config.maxPendingBytes ≤ s.sp.pendingSent + 1)) = true := by
        rw [decide_eq_true hlast, Bool.or_true]
      rw [edge_rising hlow hhigh (rising_reply_pending hf hlen hat), ServicePort.pendingByteSent, hcount]
  · have hbytes : r.bytes = sent := by
      rw [hsent]
      unfold Reply.bytes
      cases r.status <;> rfl
    refine ⟨fun h => by simp only [State.sDo, hf, h], fun h => by simp only [State.sDo, hf, h, hr, hbytes], ?_⟩
    intro k j b hat hb
    rw [← hbytes, ← replyBytes_eq hr] at hb ⊢
    exact exec_edge_reply hf hat hb k

/-! ### An unknown code (R160) -/

/-- In the reply phase no edge of S_CLK leaves REPLY or touches the reply. -/
theorem takeServiceEdge_reply {s : State} (hf : s.sp.frame = .reply) (k : ServiceLine) :
    (takeServiceEdge k s).sp.frame = .reply ∧ (takeServiceEdge k s).sp.reply = s.sp.reply := by
  unfold takeServiceEdge
  split
  · split
    · next sp hr =>
      obtain ⟨⟨b, h⟩, _⟩ | ⟨b, _, h, _⟩ | ⟨_, _, rfl⟩ | ⟨_, _, _, rfl⟩ | ⟨_, _, _, _, rfl⟩ | ⟨h, _⟩ := rising_cases hr
      · cases hf.symm.trans h
      · cases hf.symm.trans h
      · exact ⟨hf, rfl⟩
      · exact ⟨hf, rfl⟩
      · exact ⟨hf, rfl⟩
      · exact absurd hf h
    · exact ⟨hf, rfl⟩
  · split
    · obtain ⟨v, h⟩ := falling_eq s.sp
      rw [h]
      exact ⟨hf, rfl⟩
    · exact ⟨hf, rfl⟩

theorem afterEdges_reply {s : State} (hf : s.sp.frame = .reply) (ks : List ServiceLine) :
    (afterEdges ks s).sp.frame = .reply ∧ (afterEdges ks s).sp.reply = s.sp.reply := by
  induction ks generalizing s with
  | nil => exact ⟨hf, rfl⟩
  | cons k ks ih =>
    obtain ⟨hframe, hreply⟩ := takeServiceEdge_reply hf k
    rw [afterEdges_cons, ← hreply]
    exact ih hframe

/-- Every service command is a judgement, taken at its last byte. -/
theorem exec_takes {i : Instr} {bytes : List Byte} (h : i.serviceBytes = some bytes) :
    ∃ judge, ∀ s, exec i s = .next (takeCommand i judge s) := by
  cases i <;> cases h <;> exact ⟨_, fun _ => rfl⟩

/-- Settles O49: taken at its code byte, and everything after it ignored. -/
theorem unknownCodeIsBadCommand : Obligations.UnknownCodeIsBadCommand := by
  intro code s hcode hf hbits
  have hdue : s.sp.frame = .command [] ∧ commandArgs code = none ∧ s.sp.bits <+: byteBits code := ⟨hf, hcode, hbits⟩
  refine ⟨setReply (reply .badCommand) code s, ?_, rfl, fun b => ?_, fun ks => afterEdges_reply rfl ks, fun c b hb => ?_⟩
  · simp only [exec, execUnknownCommand]
    rw [if_pos hdue]
  · exact exec_byte_ignored fun bytes h => by cases h
  · obtain ⟨judge, h⟩ := exec_takes hb
    rw [h, takeCommand_unawaited judge hb (.inl (by nofun))]

end Sys2Proof.Machine
end

section
/-! LINK CONTROL, the opcode table and the configuration of the blocks, written and read (R5, R7, R18 to R21, R43, R44,
R58 to R60, R79, R80). -/

namespace Sys2Proof.Machine
open Sys2Proof

/-! ### Argument forms -/

theorem onOff?_none {b : Byte} (h0 : b ≠ 0) (h1 : b ≠ 1) : onOff? b = none := by
  revert b; decide

theorem opcodeLanes?_some (b : Byte) (x : OpcodeLanes) : opcodeLanes? b = some x ↔ b = byte x.code := by
  revert b; cases x <;> decide

theorem opcodeLanes?_none {b : Byte} (h1 : b ≠ 1) (h4 : b ≠ 4) : opcodeLanes? b = none := by
  revert b; decide

theorem onOffByte_ne_keep (x : Bool) : onOffByte x ≠ 0xFF := by cases x <;> decide

/-- R5: KEEP, or the byte of a value, settles on that value. -/
theorem keepOr_value {α : Type} {value? : Byte → Option α} {code : α → Byte}
    (hv : ∀ b x, value? b = some x ↔ b = code x) (hne : ∀ x, code x ≠ 0xFF) {b : Byte} {x held : α}
    (h : (b = 0xFF ∧ x = held) ∨ b = code x) : ∃ o, keepOr value? b = some o ∧ o.getD held = x := by
  rcases h with ⟨hb, hx⟩ | hb
  · exact ⟨none, if_pos hb, hx.symm⟩
  · exact ⟨some x, by rw [keepOr, if_neg (hb ▸ hne x), (hv b x).mpr hb]; rfl, rfl⟩

theorem keepOr_none {α : Type} {value? : Byte → Option α} {b : Byte} (hb : b ≠ 0xFF) (h : value? b = none) :
    keepOr value? b = none := (if_neg hb).trans (congrArg (Option.map some) h)

theorem index?_none {n : Nat} {b : Byte} (h : n ≤ b.toNat) : index? n b = none := dif_neg (by omega)

/-! ### LINK CONTROL (R5, R7) -/

theorem setDecodeEnable_same {on : Bool} {s : State} (h : on = s.tap.decodeEnable) : setDecodeEnable on s = s :=
  if_pos h

theorem setDecodeEnable_on {s : State} (h : s.tap.decodeEnable = false) : setDecodeEnable true s =
    { s with tap := { s.tap with decodeEnable := true, boundary := if s.hSel = 0 then .idle else .skipping } } := by
  simp [setDecodeEnable, h]

theorem setDecodeEnable_off {s : State} (h : s.tap.decodeEnable = true) : setDecodeEnable false s =
    { abandonFrame s with tap := { (abandonFrame s).tap with decodeEnable := false, boundary := .off } } := by
  simp [setDecodeEnable, h]

theorem setDecodeEnable_decodeEnable (on : Bool) (s : State) : (setDecodeEnable on s).tap.decodeEnable = on := by
  unfold setDecodeEnable
  split
  · next h => exact h.symm
  · split
    · next h => exact h.symm
    · next h => simpa using h

theorem abandonFrame_inFrame {s : State} {ctx : FrameContext} (h : s.tap.boundary = .inFrame ctx) : abandonFrame s =
    { s with mu := { s.mu with eval := none }, cc := { s.cc with current := none } } := by
  simp only [abandonFrame, h]

theorem abandonFrame_elsewhere {s : State} (h : ∀ ctx, s.tap.boundary ≠ .inFrame ctx) : abandonFrame s = s := by
  unfold abandonFrame
  split
  · next ctx hc => exact absurd hc (h ctx)
  · rfl

theorem judgeLinkControl_locked {d i l : Byte} {s : State} (h : s.sessionActive = true) :
    judgeLinkControl d i l s = (reply .locked (linkPayload s.tap), s) := if_pos h

theorem judgeLinkControl_badArg {d i l : Byte} {s : State} (h : s.sessionActive = false)
    (hnone : keepOr onOff? d = none ∨ keepOr idleLevel? i = none ∨ keepOr opcodeLanes? l = none) :
    judgeLinkControl d i l s = (reply .badArg (linkPayload s.tap), s) := by
  unfold judgeLinkControl
  rw [if_neg (by rw [h]; nofun)]
  split
  · next hd hi hl => simp [hd, hi, hl] at hnone
  · rfl

theorem judgeLinkControl_ok {d i l : Byte} {s : State} {od oi : Option Bool} {ol : Option OpcodeLanes}
    (h : s.sessionActive = false) (hd : keepOr onOff? d = some od) (hi : keepOr idleLevel? i = some oi)
    (hl : keepOr opcodeLanes? l = some ol) : judgeLinkControl d i l s =
      (reply .ok (linkPayload (applyLinkControl od oi ol s).tap), applyLinkControl od oi ol s) := by
  simp only [judgeLinkControl, h, hd, hi, hl, Bool.false_eq_true, if_false]

/-- Settles O53: the settings accepted, then the tap's move by the change of decode enable. -/
theorem linkControlSetsTheTap : Obligations.LinkControlSetsTheTap := by
  intro d i l s hr
  refine ⟨fun h => ?_, fun h hbad => ?_, fun on idle lanes h hd hi hl => ?_⟩
  · exact answers_of_judge _ hr rfl rfl (judgeLinkControl_locked h)
  · refine answers_of_judge _ hr rfl rfl (judgeLinkControl_badArg h ?_)
    rcases hbad with ⟨h0, h1, hk⟩ | ⟨h0, h1, hk⟩ | ⟨h1, h4, hk⟩
    · exact .inl (keepOr_none hk (onOff?_none h0 h1))
    · exact .inr (.inl (keepOr_none hk (onOff?_none h0 h1)))
    · exact .inr (.inr (keepOr_none hk (opcodeLanes?_none h1 h4)))
  · obtain ⟨od, hod, rfl⟩ := keepOr_value onOff?_some onOffByte_ne_keep hd
    obtain ⟨oi, hoi, rfl⟩ := keepOr_value (value? := idleLevel?) onOff?_some onOffByte_ne_keep hi
    obtain ⟨ol, hol, rfl⟩ := keepOr_value opcodeLanes?_some (by rintro (_ | _) <;> decide) hl
    refine ⟨applyLinkControl od oi ol s, answers_of_judge _ hr rfl rfl ?_, fun hsame => ?_, fun hon hoff => ?_,
      fun hoff hon => ⟨fun ctx hc => ?_, fun hc => ?_⟩⟩
    · rw [judgeLinkControl_ok h hod hoi hol]
      simp only [linkPayload, applyLinkControl, setDecodeEnable_decodeEnable]
      rfl
    · simp only [applyLinkControl, setDecodeEnable_same hsame]
    · simp only [applyLinkControl, hon, setDecodeEnable_on hoff]
    · simp only [applyLinkControl, hoff, setDecodeEnable_off hon, abandonFrame_inFrame hc]
    · simp only [applyLinkControl, hoff, setDecodeEnable_off hon, abandonFrame_elsewhere hc]

/-! ### The opcode table (R18 to R21) -/

/-- R19: the free position is the lowest one. -/
theorem freePosition_of_lowest {t : OpcodeTable} {i : Fin 32} (hi : t.get i = none) (hlow : ∀ j < i, t.get j ≠ none) :
    t.freePosition = some i := by
  refine List.find?_eq_some_iff_getElem.mpr ⟨by simp [hi], i.val, by simp, by simp, fun j hj => ?_⟩
  simpa [Option.isSome_iff_ne_none] using hlow ⟨j, by omega⟩ hj

theorem freePosition_none {t : OpcodeTable} (h : ∀ i, t.get i ≠ none) : t.freePosition = none := by
  simpa [OpcodeTable.freePosition] using h

theorem opcodeEntryReply_byOpcode (v : Byte) (t : OpcodeTable) : opcodeEntryReply 0 v t =
    match t.position v with
    | some i => (match t.get i with | some e => reply .ok (entryPayload i.val e) | none => reply .notFound)
    | none => reply .notFound := rfl

theorem opcodeEntryReply_byPosition (v : Byte) (t : OpcodeTable) : opcodeEntryReply 1 v t =
    match index? 32 v with
    | none => reply .badArg
    | some i => (match t.get i with | some e => reply .ok (entryPayload i.val e) | none => reply .empty) := rfl

theorem opcodeEntryReply_otherForm {form : Byte} (v : Byte) (t : OpcodeTable) (h : 2 ≤ form.toNat) :
    opcodeEntryReply form v t = reply .badArg := by
  unfold opcodeEntryReply
  split
  · next h0 => omega
  · next h1 => omega
  · rfl

/-- Settles O54: each command's judgement, over the position of the opcode value. -/
theorem opcodeTableCommands : Obligations.OpcodeTableCommands := by
  intro s hu
  refine ⟨fun a hr => ⟨fun h => ?_, fun h hbad => ?_, fun e h he => ⟨fun i old hi ho => ?_,
    fun hnew => ⟨fun i hi hlow => ?_, fun hfull => ?_⟩⟩⟩, fun form v hr => ⟨fun i e hi hform => ?_,
    fun hform hno => ?_, fun i hform hv hi => ?_, fun hbad => ?_⟩, fun v hr => ⟨fun h => ?_, fun i e h hi he => ?_,
    fun h hno => ?_⟩⟩
  · exact answers_of_judge _ hr rfl rfl (if_pos h)
  · have he : entry? a = none := Option.eq_none_iff_forall_ne_some.mpr fun e he => hbad e ((entry?_some a e).mp he)
    exact answers_of_judge _ hr rfl rfl (by simp only [judgePutOpcodeEntry, h, he, Bool.false_eq_true, if_false, reply])
  · have hpos := position_of_get hu hi
    rw [ho] at hpos
    refine answers_of_judge _ hr rfl rfl ?_
    simp only [judgePutOpcodeEntry, h, (entry?_some a e).mpr he, hpos, Bool.false_eq_true, if_false, reply]
  · have hpos := position_none.mpr hnew
    have hfree := freePosition_of_lowest hi hlow
    refine answers_of_judge _ hr rfl rfl ?_
    simp only [judgePutOpcodeEntry, h, (entry?_some a e).mpr he, hpos, hfree, Bool.false_eq_true, if_false, reply]
  · have hpos := position_none.mpr hnew
    refine answers_of_judge _ hr rfl rfl ?_
    simp only [judgePutOpcodeEntry, h, (entry?_some a e).mpr he, hpos, freePosition_none hfull, Bool.false_eq_true,
      if_false, reply]
  · refine answers_of_judge _ hr rfl rfl (Prod.ext ?_ rfl)
    rcases hform with ⟨rfl, rfl⟩ | ⟨rfl, rfl⟩
    · simp only [opcodeEntryReply_byOpcode, position_of_get hu hi, hi]
      rfl
    · simp only [opcodeEntryReply_byPosition, (index?_some (by omega) _ i).mpr rfl, hi]
      rfl
  · subst hform
    refine answers_of_judge _ hr rfl rfl (Prod.ext ?_ rfl)
    simp only [opcodeEntryReply_byOpcode, position_none.mpr hno]
    rfl
  · subst hform hv
    refine answers_of_judge _ hr rfl rfl (Prod.ext ?_ rfl)
    simp only [opcodeEntryReply_byPosition, (index?_some (by omega) _ i).mpr rfl, hi]
    rfl
  · refine answers_of_judge _ hr rfl rfl (Prod.ext ?_ rfl)
    rcases hbad with ⟨rfl, hv⟩ | hform
    · simp only [opcodeEntryReply_byPosition, index?_none hv]
      rfl
    · exact opcodeEntryReply_otherForm v s.opTable hform
  · exact answers_of_judge _ hr rfl rfl (if_pos h)
  · have hpos := position_of_get hu hi
    rw [he] at hpos
    exact answers_of_judge _ hr rfl rfl (by
      simp only [judgeDropOpcodeEntry, h, hpos, Bool.false_eq_true, if_false, reply])
  · exact answers_of_judge _ hr rfl rfl (by
      simp only [judgeDropOpcodeEntry, h, position_none.mpr hno, Bool.false_eq_true, if_false, reply])

/-! ### The configuration of the blocks, written (R43, R58, R60, R79) -/

/-- Settles O55: LOCKED, then the number and the fields, then the whole descriptor put in place. -/
theorem configurationWrites : Obligations.ConfigurationWrites := by
  intro s
  refine ⟨fun a hr => ⟨fun h => ?_, fun h hbad => ?_, fun n f h hn hf => ?_⟩,
    fun a hr => ⟨fun h => ?_, fun h hbad => ?_, fun n g h hn hg => ?_⟩,
    fun n hr => ⟨fun h => ?_, fun h hbad => ?_, fun h hlow hhigh => ?_⟩,
    fun a hr => ⟨fun h => ?_, fun h hbad => ?_, fun c h hc => ?_⟩⟩
  · exact answers_of_judge _ hr rfl rfl (if_pos h)
  · refine answers_of_judge (judgePutSlot a) hr rfl rfl ?_
    unfold judgePutSlot
    rw [if_neg (by rw [h]; nofun)]
    split
    · next n f hn hf =>
      rcases hbad with hlarge | hno
      · cases (index?_none hlarge).symm.trans hn
      · exact absurd ((slot?_some a f).mp hf) (hno f)
    · rfl
  · refine answers_of_judge (judgePutSlot a) hr rfl rfl ?_
    simp only [judgePutSlot, h, (index?_some (by omega) _ n).mpr hn, (slot?_some a f).mpr hf, Bool.false_eq_true,
      if_false, reply]
  · exact answers_of_judge _ hr rfl rfl (if_pos h)
  · refine answers_of_judge (judgePutStage a) hr rfl rfl ?_
    unfold judgePutStage
    rw [if_neg (by rw [h]; nofun)]
    split
    · next n g hn hg =>
      rcases hbad with hlarge | hno
      · cases (index?_none hlarge).symm.trans hn
      · exact absurd ((stage?_some a g).mp hg) (hno g)
    · rfl
  · refine answers_of_judge (judgePutStage a) hr rfl rfl ?_
    simp only [judgePutStage, h, (index?_some (by omega) _ n).mpr hn, (stage?_some a g).mpr hg, Bool.false_eq_true,
      if_false, reply]
  · exact answers_of_judge _ hr rfl rfl (if_pos h)
  · have hrange : ¬(1 ≤ n.toNat ∧ n.toNat ≤ 4) := by omega
    exact answers_of_judge _ hr rfl rfl (by
      simp only [judgePutSequence, h, hrange, Bool.false_eq_true, if_false, reply])
  · exact answers_of_judge _ hr rfl rfl (by
      simp only [judgePutSequence, h, hlow, hhigh, Bool.false_eq_true, if_false, and_self, if_true, reply])
  · exact answers_of_judge _ hr rfl rfl (if_pos h)
  · have hc : setup? a = none := Option.eq_none_iff_forall_ne_some.mpr fun c hc => hbad c ((setup?_some a c).mp hc)
    exact answers_of_judge _ hr rfl rfl (by
      simp only [judgePutCaptureSetup, h, hc, Bool.false_eq_true, if_false, reply])
  · exact answers_of_judge _ hr rfl rfl (by
      simp only [judgePutCaptureSetup, h, (setup?_some a c).mpr hc, Bool.false_eq_true, if_false, reply])

/-! ### The configuration of the blocks, read (R44, R59, R80) -/

/-- Settles O56: the payload of each block in its layout of 11.4, by the form of the opcode condition and the window. -/
theorem configurationReads : Obligations.ConfigurationReads := by
  intro s
  refine ⟨fun n hr => ⟨fun h => ?_, fun k f hn hf => ?_⟩, fun n hr => ⟨fun h => ?_, fun k g hn hg => ?_⟩,
    fun c hr hc => ?_⟩
  · refine answers_of_judge _ hr rfl rfl (Prod.ext ?_ rfl)
    simp only [slotReply, index?_none h, reply]
  · subst hn hf
    refine answers_of_judge _ hr rfl rfl (Prod.ext ?_ rfl)
    simp only [slotReply, (index?_some (by omega) _ k).mpr rfl, reply, slotPayload]
    cases (s.mu.slots.get k).opcode <;> cases (s.mu.slots.get k).window <;> rfl
  · refine answers_of_judge _ hr rfl rfl (Prod.ext ?_ rfl)
    simp only [stageReply, index?_none h, reply]
  · subst hn hg
    refine answers_of_judge _ hr rfl rfl (Prod.ext ?_ rfl)
    simp only [stageReply, (index?_some (by omega) _ k).mpr rfl, reply, stagePayload]
  · subst hc
    exact answers_of_judge _ hr rfl rfl rfl

end Sys2Proof.Machine
end

section
/-! ARM, STOP, FORCE TRIGGER and CLEAR TRACE (R73, R83 to R87); the commands of the timebase (R143, R144, R147) and of
the tally (R184, R185, R187). -/

namespace Sys2Proof.Machine
open Sys2Proof

/-! ### ARM (R83, R84) -/

section
variable {o p : Byte} {s : State}

/-- R83: an ARM that is not OK changes nothing. -/
theorem judgeArm_refused {st : Status} (h : armStatus (traceKeep? o) (onSync? p) s = st) (hne : st ≠ .ok) :
    judgeArm o p s = (reply st [byte s.cc.state.code], s) := by
  simp only [judgeArm, h, if_neg hne]

theorem judgeArm_ok {keep sync : Bool} (ho : o = onOffByte keep) (hp : p = onOffByte sync)
    (h : armStatus (some keep) (some sync) s = .ok) :
    judgeArm o p s =
      (reply .ok [byte (beginSession sync (prepareSession keep s)).cc.state.code],
        settle s (beginSession sync (prepareSession keep s))) := by
  have hkeep : traceKeep? o = some keep := (onOff?_some o keep).mpr ho
  have hsync : onSync? p = some sync := (onOff?_some p sync).mpr hp
  simp only [judgeArm, hkeep, hsync, h, if_true, Option.getD_some, happening, (settle_session _ _).2]

theorem armStatus_active (keep sync : Option Bool) (h : s.sessionActive = true) : armStatus keep sync s = .active :=
  if_pos h

theorem armStatus_options (keep sync : Bool) (h : s.sessionActive = false) : armStatus (some keep) (some sync) s =
    if sync = true ∧ s.tb.role ≠ .follower then .badArg
    else if keep = true ∧ s.ru.mark.isSome = true then .markHeld
    else if keep = true ∧ s.tm.trace ≠ [] then .unread
    else .ok := by
  simp only [armStatus, h, Bool.false_eq_true, if_false]

theorem armStatus_none {keep sync : Option Bool} (h : s.sessionActive = false) (hnone : keep = none ∨ sync = none) :
    armStatus keep sync s = .badArg := by
  unfold armStatus
  rw [if_neg (by rw [h]; nofun)]
  split
  · simp at hnone
  · rfl

theorem onOff?_large {b : Byte} (h : 2 ≤ b.toNat) : onOff? b = none :=
  onOff?_none (by rintro rfl; simp at h) (by rintro rfl; simp at h)

/-- R83: a start on SYNC is for a FOLLOWER. -/
theorem armStatus_sync (keep : Option Bool) (h : s.sessionActive = false) (hrole : s.tb.role ≠ .follower) :
    armStatus keep (some true) s = .badArg := by
  cases keep with
  | none => exact armStatus_none h (.inl rfl)
  | some k => rw [armStatus_options k true h, if_pos ⟨rfl, hrole⟩]

/-- What decides an ARM with KEEP. -/
theorem armStatus_keep {sync : Bool} (h : s.sessionActive = false) (hsync : sync = true → s.tb.role = .follower) :
    armStatus (some true) (some sync) s =
      if s.ru.mark.isSome = true then .markHeld else if s.tm.trace ≠ [] then .unread else .ok := by
  rw [armStatus_options true sync h, if_neg fun hs => hs.2 (hsync hs.1)]
  simp only [true_and]

theorem armStatus_discard {sync : Bool} (h : s.sessionActive = false) (hsync : sync = true → s.tb.role = .follower) :
    armStatus (some false) (some sync) s = .ok := by
  rw [armStatus_options false sync h, if_neg fun hs => hs.2 (hsync hs.1)]
  simp only [Bool.false_eq_true, false_and, if_false]

end

/-- R146: a LEADER's emission, where no pulse is being driven. -/
theorem emitSync_eq (s : State) : emitSync s = { s with
    tb := if s.tb.syncPulse = none then { s.tb with time := 0, divider := 0, timeReset := true, syncPulse := some 0 }
      else s.tb } := by
  unfold emitSync
  split
  · next n h => rw [h]; rfl
  · next h => rw [h]; rfl

/-- R85, R146: the session's start, with the emission of a LEADER that arms with sync. -/
theorem beginSession_immediate (s : State) : beginSession false s = { s with
    cc := { s.cc with state := if s.cc.setup.mode = .window then .pretrig else .streaming }
    seq := { s.seq with
      state := .watching, stage := 0, occ := 0
      timer := if (s.seq.stages.get 0).timeout = 0 then none else some 0
      sessionStart := s.tap.frameStarts }
    tb := if s.tb.role = .leader ∧ s.tb.syncAtArm = true ∧ s.tb.syncPulse = none then
        { s.tb with time := 0, divider := 0, timeReset := true, syncPulse := some 0 }
      else s.tb } := by
  have hbegin : beginSession false s =
      if s.tb.role = .leader ∧ s.tb.syncAtArm = true then emitSync (startSession s) else startSession s := rfl
  rw [hbegin]
  by_cases hlead : s.tb.role = .leader ∧ s.tb.syncAtArm = true
  · rw [if_pos hlead, emitSync_eq]
    simp only [startSession, Sequencer.enter, freshTimer, hlead, true_and]
  · rw [if_neg hlead]
    have hno : ¬(s.tb.role = .leader ∧ s.tb.syncAtArm = true ∧ s.tb.syncPulse = none) := fun h => hlead ⟨h.1, h.2.1⟩
    simp only [startSession, Sequencer.enter, freshTimer, if_neg hno]

/-- The rows of ARM that are refused. -/
theorem arm_refused {o p : Byte} {s : State} {st : Status} (hr : Received 0x32 [o, p] s)
    (h : armStatus (traceKeep? o) (onSync? p) s = st) (hne : st ≠ .ok) :
    Answers (.arm o p) s { status := st, payload := [byte s.cc.state.code] } s :=
  answers_of_judge _ hr rfl rfl (judgeArm_refused h hne)

/-! ### FORCE TRIGGER (R73) -/

theorem SessionMove.trigCount {s t : State} (h : SessionMove s t) : t.seq.trigCount = s.seq.trigCount := by
  obtain ⟨hseq, _⟩ | ⟨hseq, _⟩ := h <;> rw [hseq]
  rfl

theorem postTrigger_trigCount (s : State) : (postTrigger s).seq.trigCount = s.seq.trigCount := by
  unfold postTrigger
  split
  · rfl
  · split <;> rfl

/-- R74: a declaration counts one trigger. -/
theorem declareTrigger_trigCount (src : TriggerSource) (s : State) :
    (declareTrigger src s).seq.trigCount = min 65535 (s.seq.trigCount + 1) := by
  have hraised : (triggerRaised src s).seq.trigCount = min 65535 (s.seq.trigCount + 1) := by
    simp only [triggerRaised, raiseEvent_seq]
  rw [declareTrigger_eq, postTrigger_trigCount, pulseXt_eq]
  exact (placeTrigger_move src (triggerRaised src s)).trigCount.trans hraised

theorem judgeForceTrigger_watching {s : State} (h : s.seq.state = .watching) : judgeForceTrigger s =
    (reply .ok (beBytes 2 (min 65535 (s.seq.trigCount + 1))), settle s (declareTrigger .forced s)) := by
  simp only [judgeForceTrigger, h, if_true, happening, (settle_session _ _).1, declareTrigger_trigCount]

/-! ### The session commands -/

/-- Settles O57: ARM by the first condition that holds, then the session's start; the other three by their state. -/
theorem sessionCommands : Obligations.SessionCommands := by
  intro s
  refine ⟨fun o p hr => ⟨fun h => ?_, fun h hbad => ?_, fun h ho hp => ?_, fun kept ready h hkept hready => ?_⟩,
    fun hr => ⟨fun h => ?_, fun h => ?_⟩, fun hr => ⟨fun t hw ht => ?_, fun hw => ?_⟩,
    fun hr => ⟨fun h => ?_, fun h => ?_⟩⟩
  · exact arm_refused hr (armStatus_active _ _ h) nofun
  · refine arm_refused hr ?_ nofun
    rcases hbad with ho | hp | ⟨rfl, hrole⟩
    · exact armStatus_none h (.inl (onOff?_large ho))
    · exact armStatus_none h (.inr (onOff?_large hp))
    · exact armStatus_sync _ h hrole
  · subst ho
    have hstatus : armStatus (traceKeep? 1) (onSync? p) s =
        if s.ru.mark.isSome = true then .markHeld else if s.tm.trace ≠ [] then .unread else .ok := by
      rcases hp with rfl | ⟨rfl, hrole⟩
      · exact armStatus_keep h nofun
      · exact armStatus_keep h fun _ => hrole
    refine ⟨fun hmark => arm_refused hr ?_ nofun, fun hmark htrace => arm_refused hr ?_ nofun⟩
    · rw [hstatus, if_pos (Option.isSome_iff_ne_none.mpr hmark)]
    · rw [hstatus, hmark, if_neg (by nofun), if_pos htrace]
  · obtain ⟨keep, ho, hprepared, hok⟩ : ∃ keep, o = onOffByte keep ∧ prepareSession keep s = ready ∧
        ∀ sync : Bool, (sync = true → s.tb.role = .follower) → armStatus (some keep) (some sync) s = .ok := by
      rcases hkept with ⟨ho, rfl⟩ | ⟨ho, hmark, htrace, rfl⟩
      · exact ⟨false, ho, hready.symm, fun sync => armStatus_discard h⟩
      · refine ⟨true, ho, hready.symm, fun sync hsync => ?_⟩
        rw [armStatus_keep h hsync, hmark, htrace]
        rfl
    refine ⟨fun hp hrole => answers_of_judge (judgeArm o p) hr rfl rfl ?_,
      fun hp st hst => answers_of_judge (judgeArm o p) hr rfl rfl ?_⟩
    · rw [judgeArm_ok (sync := true) ho hp (hok true fun _ => hrole), hprepared]
      rfl
    · rw [judgeArm_ok (sync := false) ho hp (hok false nofun), hprepared, beginSession_immediate]
      subst hready hst
      rcases hkept with ⟨_, rfl⟩ | ⟨_, _, _, rfl⟩ <;> rfl
  · refine answers_of_judge judgeStop hr rfl rfl ?_
    simp only [judgeStop, h, if_true, happening, (settle_session _ _).2, (completeSession_session _ _).2]
    rfl
  · exact answers_of_judge judgeStop hr rfl rfl (if_neg (by rw [h]; nofun))
  · exact answers_of_judge judgeForceTrigger hr rfl rfl (ht ▸ judgeForceTrigger_watching hw)
  · exact answers_of_judge judgeForceTrigger hr rfl rfl (if_neg hw)
  · exact answers_of_judge judgeClearTrace hr rfl rfl (if_pos h)
  · exact answers_of_judge judgeClearTrace hr rfl rfl (if_neg (by rw [h]; nofun))

/-! ### Packed indications (R191, R192) -/

theorem packBits_eq (b0 b1 b2 b3 b4 b5 b6 b7 : Bool) : packBits b0 b1 b2 b3 b4 b5 b6 b7 =
    byte ((if b0 then 1 else 0) + (if b1 then 2 else 0) + (if b2 then 4 else 0) + (if b3 then 8 else 0) +
      (if b4 then 16 else 0) + (if b5 then 32 else 0) + (if b6 then 64 else 0) + (if b7 then 128 else 0)) := by
  revert b0 b1 b2 b3 b4 b5 b6 b7
  decide

theorem ite_isSome {α : Type} [DecidableEq α] (o : Option α) (n : Nat) :
    (if o.isSome then n else 0) = if o = none then 0 else n := by
  cases o <;> simp

/-! ### The timebase (R143, R144, R147) -/

/-- The settings a SET TIMEBASE spells (R144). -/
theorem timebase?_of_allowed {a : TimebaseArgs} (tb : Timebase) (h : TimebaseArgs.allowed a) : timebase? a tb =
    some { tb with
      prescale := a.prescale.toNat
      role := if a.role = 0 then .alone else if a.role = 1 then .leader else .follower
      syncAtArm := a.syncAtArm = 1, xtOut := a.xtOut = 1, xtLen := a.xtLen.toNat, xtIn := a.xtIn = 1 } := by
  obtain ⟨hlow, hhigh, hrole, hsync, hout, hlen, hin⟩ := h
  have honOff : ∀ b : Byte, b.toNat ≤ 1 → onOff? b = some (decide (b = 1)) := by decide
  have hroles : ∀ b : Byte, b.toNat ≤ 2 →
      role? b = some (if b = 0 then .alone else if b = 1 then .leader else .follower) := by decide
  simp only [timebase?, hroles _ hrole, honOff _ hsync, honOff _ hout, honOff _ hin]
  exact if_pos ⟨hlow, hhigh, hlen⟩

theorem allowed_of_timebase? {a : TimebaseArgs} {tb new : Timebase} (h : timebase? a tb = some new) :
    TimebaseArgs.allowed a := by
  simp only [timebase?, option_bind_some, role?_some, onOff?_some] at h
  obtain ⟨role, hrole, syncAtArm, hsync, xtOut, hout, xtIn, hin, h⟩ := h
  split at h
  · next hrange =>
    have honOff : ∀ x : Bool, (onOffByte x).toNat ≤ 1 := by decide
    refine ⟨hrange.1, hrange.2.1, ?_, ?_, ?_, hrange.2.2, ?_⟩
    · rw [hrole]; cases role <;> decide
    · rw [hsync]; exact honOff _
    · rw [hout]; exact honOff _
    · rw [hin]; exact honOff _
  · cases h

/-- R144: the payload of accepted settings is the bytes that spelled them. -/
theorem timebasePayload_of_allowed {a : TimebaseArgs} {tb : Timebase} (h : TimebaseArgs.allowed a)
    (hprescale : tb.prescale = a.prescale.toNat)
    (hrole : tb.role = if a.role = 0 then .alone else if a.role = 1 then .leader else .follower)
    (hsync : tb.syncAtArm = decide (a.syncAtArm = 1)) (hout : tb.xtOut = decide (a.xtOut = 1))
    (hlen : tb.xtLen = a.xtLen.toNat) (hin : tb.xtIn = decide (a.xtIn = 1)) : timebasePayload tb = a.bytes := by
  obtain ⟨_, _, hr, hs, ho, _, hi⟩ := h
  have honOff : ∀ b : Byte, b.toNat ≤ 1 → onOffByte (decide (b = 1)) = b := by decide
  have hroles : ∀ b : Byte, b.toNat ≤ 2 →
      byte (Role.code (if b = 0 then .alone else if b = 1 then .leader else .follower)) = b := by decide
  rw [timebasePayload, hprescale, hrole, hsync, hout, hlen, hin, hroles _ hr, honOff _ hs, honOff _ ho, honOff _ hi]
  simp [TimebaseArgs.bytes, byte]

/-- Settles O59: the settings and their settlement, the LEADER's emission, the time read. -/
theorem timebaseCommands : Obligations.TimebaseCommands := by
  intro s
  refine ⟨fun a held hr hheld => ⟨fun h => ?_, fun h hbad => ?_, fun h hok => ?_⟩,
    fun hr => ⟨fun hrole => ?_, fun hrole hpulse => ?_, fun n hrole hpulse => ?_⟩, fun hr => ?_⟩
  · subst hheld
    exact answers_of_judge (judgeSetTimebase a) hr rfl rfl (if_pos h)
  · subst hheld
    have hnone : timebase? a s.tb = none := Option.eq_none_iff_forall_ne_some.mpr fun new hnew =>
      hbad (allowed_of_timebase? hnew)
    refine answers_of_judge (judgeSetTimebase a) hr rfl rfl ?_
    simp only [judgeSetTimebase, h, hnone, Bool.false_eq_true, if_false]
    rfl
  · refine answers_of_judge (judgeSetTimebase a) hr rfl rfl ?_
    have hrole : (if a.role = 0 then Role.alone else if a.role = 1 then .leader else .follower) = .leader ↔ a.role = 1 := by
      have : ∀ b : Byte, (if b = 0 then Role.alone else if b = 1 then .leader else .follower) = .leader ↔ b = 1 := by
        decide
      exact this a.role
    simp only [judgeSetTimebase, h, timebase?_of_allowed s.tb hok, Bool.false_eq_true, if_false, settleTimebase, hrole,
      decide_eq_true_eq]
    rw [timebasePayload_of_allowed hok rfl rfl rfl rfl rfl rfl]
    rfl
  · exact answers_of_judge judgeSyncNow hr rfl rfl (if_neg hrole)
  · refine answers_of_judge judgeSyncNow hr rfl rfl ?_
    simp only [judgeSyncNow, hrole, if_true, emitSync_eq, hpulse]
    rfl
  · refine answers_of_judge judgeSyncNow hr rfl rfl ?_
    simp only [judgeSyncNow, hrole, if_true, emitSync_eq, hpulse]
    rfl
  · refine answers_of_judge judgeReadTime hr rfl rfl (Prod.ext ?_ rfl)
    simp [judgeReadTime, State.syncPin, State.xtPin, pulseByte, packBits_eq, ite_isSome, reply]

/-! ### The tally (R184, R185, R187) -/

theorem toList_six {α : Type} (v : Vector α 6) :
    v.toList = [v.get 0, v.get 1, v.get 2, v.get 3, v.get 4, v.get 5] := by
  refine List.ext_getElem (by simp) fun k hk _ => ?_
  rw [Vector.length_toList] at hk
  interval_cases k <;> rfl

/-- Settles O60: the enable and KEEP, the snapshot with or without CLEAR, a row or the collision counter. -/
theorem tallyCommands : Obligations.TallyCommands := by
  intro s
  refine ⟨fun c hr => ⟨fun h0 h1 hk => ?_, fun hk => ?_, fun on hc => ?_⟩,
    fun c hr => ⟨fun hc => ?_, fun hc => ?_, fun hc => ?_⟩,
    fun row hr => ⟨fun n r cell hrow hn hcell => ?_, fun hrow => ?_, fun hrow => ?_⟩⟩
  · refine answers_of_judge (judgeTallyControl c) hr rfl rfl ?_
    simp only [judgeTallyControl, keepOr_none hk (onOff?_none h0 h1), reply]
  · refine answers_of_judge (judgeTallyControl c) hr rfl rfl ?_
    subst hk
    rfl
  · obtain ⟨choice, hchoice, hon⟩ :=
      keepOr_value (x := on) (held := s.tally.enable) onOff?_some onOffByte_ne_keep (.inr hc)
    refine answers_of_judge (judgeTallyControl c) hr rfl rfl ?_
    simp only [judgeTallyControl, hchoice, hon, ← hc, reply]
  · refine answers_of_judge (judgeTallySnapshot c) hr rfl rfl ?_
    simp only [judgeTallySnapshot, snapshotClear?, onOff?_large hc, reply]
  · subst hc
    exact answers_of_judge (judgeTallySnapshot 0) hr rfl rfl rfl
  · subst hc
    exact answers_of_judge (judgeTallySnapshot 1) hr rfl rfl rfl
  · subst hrow hn
    have hlayout : ∀ k, ((s.tally.snap.rows.get n).cells.get k).layout = cell k := fun k => (hcell k).symm
    refine answers_of_judge _ hr rfl rfl (Prod.ext ?_ rfl)
    simp only [tallyReply, (index?_some (by omega) _ n).mpr rfl, reply, tallyRowPayload]
    have hcells : (s.tally.snap.rows.get n).cells.toList.map TallyCell.layout =
        [cell 0, cell 1, cell 2, cell 3, cell 4, cell 5] := by
      rw [toList_six]
      simp only [List.map_cons, List.map_nil, hlayout]
    rw [hcells]
    simp
  · subst hrow
    exact answers_of_judge _ hr rfl rfl rfl
  · have hne : row ≠ 4 := by rintro rfl; simp at hrow
    refine answers_of_judge _ hr rfl rfl (Prod.ext ?_ rfl)
    simp only [tallyReply, index?_none (show 4 ≤ row.toNat by omega), hne, if_false, reply]

end Sys2Proof.Machine
end

section
/-! The readout commands, and the bytes of each kind of record (R112, R127, R130 to R135, R188). -/

namespace Sys2Proof.Machine
open Sys2Proof

/-! ### The bytes of a record (R188) -/

theorem padding_length (n : Nat) : n + (padding n).length = 8 * ((n + 7) / 8) := by
  simp only [padding, List.length_replicate]
  omega

theorem Record.units_frame (r : FrameRecord) : (Record.frame r).units = 4 + (r.stored.length + 7) / 8 := rfl

/-- R188: a record's bytes fill its units. -/
theorem Record.bytes_length (r : Record) : r.bytes.length = 8 * r.units := by
  cases r with
  | frame r =>
    have hpad := padding_length r.stored.length
    simp only [Record.bytes, FrameRecord.bytes, List.length_append, List.length_cons, List.length_nil, beBytes_length,
      Record.units_frame]
    omega
  | gap run => simp [Record.bytes, Record.units, Config.headerUnits]
  | marker number time cause => simp [Record.bytes, Record.units, Config.headerUnits]

/-- Byte 18 of a FRAME record (R188). -/
theorem FrameRecord.flagByte_eq (r : FrameRecord) : r.flagByte =
    byte ((if r.trigger then 1 else 0) + (if r.truncated then 2 else 0) + (if r.residue then 4 else 0) +
      (if r.excess then 8 else 0) + (if r.collision then 16 else 0) + (if r.timeReset then 32 else 0) +
      (if r.holdViolation then 64 else 0) + (if r.address = none then 0 else 128)) := by
  rw [FrameRecord.flagByte, packBits_eq, ite_isSome]

/-! The codes of a FRAME record's fields, written out. -/

theorem Target.byte_code (x : Target) : byte x.code = match x with
    | .sel n => byte n.val
    | .multiple => 15 := by
  cases x <;> rfl

theorem Kind.byte_code (x : Kind) : byte x.code = match x with
    | .read => 0
    | .write => 1
    | .erase => 2
    | .control => 3
    | .status => 4
    | .unlisted => 5 := by
  cases x <;> rfl

theorem byte_stageCode (x : Option (Fin 4)) : byte (stageCode x) = match x with
    | some k => byte k.val
    | none => 4 := by
  cases x <;> rfl

theorem byte_addrBytes (x : AddrBytes) : byte (AddrBytes.toNat x) = match x with
    | .zero => 0
    | .two => 2
    | .three => 3
    | .four => 4 := by
  cases x <;> rfl

theorem beBytes_address (x : Option Word32) : beBytes 4 (x.getD 0).toNat = match x with
    | some a => beBytes 4 a.toNat
    | none => [0, 0, 0, 0] := by
  cases x <;> rfl

/-! ### What the Trace Memory frees (R112) -/

theorem freeRead_unmarked {s : State} (h : s.ru.mark = none) : freeRead s = { s with
    tm := { s.tm with
      trace := s.tm.trace.drop s.ru.cursor
      free := s.tm.free + unitsOf (s.tm.trace.take s.ru.cursor) }
    cc := { s.cc with preCount := s.cc.preCount - preRecords (s.tm.trace.take s.ru.cursor) }
    ru := { s.ru with cursor := 0 } } := by
  simp only [freeRead, removeOldest, h, Option.getD_none, Option.map_none, Nat.sub_self]

theorem freeRead_marked {s : State} (h : s.ru.mark = some 0) : freeRead s = s := by
  have hru : { s.ru with cursor := s.ru.cursor, mark := some 0 } = s.ru := by rw [← h]
  simp only [freeRead, removeOldest, h, Option.getD_some, Option.map_some, List.drop_zero, List.take_zero, Nat.sub_zero]
  rw [hru]
  rfl

/-- R131: over no record nothing is skipped, and an advance frees what a mark does not keep. -/
theorem skipRecords_unmarked {s : State} (h : s.ru.mark = none) {k : Nat} (hk : k ≠ 0) : skipRecords k s = { s with
    tm := { s.tm with
      trace := s.tm.trace.drop (s.ru.cursor + k)
      free := s.tm.free + unitsOf (s.tm.trace.take (s.ru.cursor + k)) }
    cc := { s.cc with preCount := s.cc.preCount - preRecords (s.tm.trace.take (s.ru.cursor + k)) }
    ru := { s.ru with cursor := 0 } } := by
  rw [skipRecords, if_neg hk, freeRead_unmarked (by exact h)]

theorem skipRecords_marked {s : State} (h : s.ru.mark = some 0) (k : Nat) : skipRecords k s =
    { s with ru := { s.ru with cursor := s.ru.cursor + k } } := by
  unfold skipRecords
  split
  · next hk => rw [hk]; rfl
  · exact freeRead_marked (by exact h)

theorem judgeSkipRecords_counted {s : State} {n : BitVec 16} (hn : n ≠ 0) : judgeSkipRecords n s =
    (reply .ok (beBytes 2 (min n.toNat s.unread)), settle s (skipRecords (min n.toNat s.unread) s)) := if_neg hn

/-! ### The readout commands -/

/-- Settles O58: each command at the cursor and at the mark. -/
theorem readoutCommands : Obligations.ReadoutCommands := by
  intro s
  refine ⟨fun h => ⟨fun hr => ?_, fun hr => ?_⟩, fun h bytes hh hbytes => ?_,
    fun n hr => ⟨fun hn => ?_, fun k hn hk => ⟨fun h0 => ?_, fun h0 hm => ?_, fun hm => ?_⟩⟩,
    fun hr => ⟨fun hm => ?_, fun hm h0 => ?_, fun hm h0 => ?_⟩,
    fun hr => ⟨fun hm => ?_, fun hm => ?_⟩, fun hr => ⟨fun hm => ?_, fun hm => ?_⟩,
    fun w hr => ⟨fun hw => ?_, fun hw => ?_⟩⟩
  · exact answers_of_judge judgeReadRecord hr rfl rfl (by simp only [judgeReadRecord, State.atCursor, h, reply])
  · exact answers_of_judge judgePeekRecord hr rfl rfl (by simp only [judgePeekRecord, State.atCursor, h, reply])
  · have hspelled : bytes = h.record.bytes := by
      rw [hbytes]
      cases h.record with
      | frame r =>
        simp only [Record.bytes, FrameRecord.bytes, r.flagByte_eq, Target.byte_code, Kind.byte_code, byte_stageCode,
          byte_addrBytes, beBytes_address] <;> rfl
      | gap run => rfl
      | marker number time cause => cases cause <;> rfl
    rw [hspelled]
    refine ⟨h.record.bytes_length, fun hr => ?_, fun hr => ?_⟩
    · exact answers_of_judge judgeReadRecord hr rfl rfl (by simp only [judgeReadRecord, State.atCursor, hh, reply])
    · exact answers_of_judge judgePeekRecord hr rfl rfl (by simp only [judgePeekRecord, State.atCursor, hh, reply])
  · exact answers_of_judge (judgeSkipRecords n) hr rfl rfl (if_pos hn)
  · refine answers_of_judge (judgeSkipRecords n) hr rfl rfl ?_
    rw [judgeSkipRecords_counted hn, ← hk, h0, show skipRecords 0 s = s from rfl, settle_self]
    rfl
  · refine answers_of_judge (judgeSkipRecords n) hr rfl rfl ?_
    rw [judgeSkipRecords_counted hn, ← hk, skipRecords_unmarked hm h0, reply]
  · refine answers_of_judge (judgeSkipRecords n) hr rfl rfl ?_
    rw [judgeSkipRecords_counted hn, ← hk, skipRecords_marked hm, reply]
  · exact answers_of_judge judgeMark hr rfl rfl (if_pos (Option.isSome_iff_ne_none.mpr hm))
  · exact answers_of_judge judgeMark hr rfl rfl (by simp [judgeMark, hm, h0, reply])
  · exact answers_of_judge judgeMark hr rfl rfl (by simp [judgeMark, hm, h0, reply])
  · exact answers_of_judge judgeRewind hr rfl rfl (by simp only [judgeRewind, hm, reply])
  · refine answers_of_judge judgeRewind hr rfl rfl ?_
    simp only [judgeRewind, hm, happening, rewindTo, Nat.sub_zero, reply]
  · exact answers_of_judge judgeRelease hr rfl rfl (by simp only [judgeRelease, hm, reply])
  · refine answers_of_judge judgeRelease hr rfl rfl ?_
    simp only [judgeRelease, hm, happening, releaseMark, Nat.sub_zero, reply]
    rw [freeRead_unmarked (by rfl)]
  · exact answers_of_judge (judgeSetWatermark w) hr rfl rfl (if_pos hw)
  · refine answers_of_judge (judgeSetWatermark w) hr rfl rfl ((if_neg (by omega)).trans ?_)
    rw [← Bool.decide_and]
    rfl

end Sys2Proof.Machine
end

section
/-! STATUS, NEXT EVENT, SET EVENT MASK and SOFT RESET (R165, R171, R173, R174), and the completion of a reply
(R112, R128, R162, R163, R172). -/

namespace Sys2Proof.Machine
open Sys2Proof

/-! ### STATUS (R165) -/

theorem captureState_bytes (x : CaptureState) : [byte x.code, byte x.causeCode] = match x with
    | .idle => [0, 0]
    | .waitSync => [1, 0]
    | .pretrig => [2, 0]
    | .posttrig => [3, 0]
    | .streaming => [4, 0]
    | .complete .count => [5, 1]
    | .complete .full => [5, 2]
    | .complete .stopped => [5, 3] := by
  cases x with
  | complete c => cases c <;> rfl
  | _ => rfl

theorem SeqState.byte_code (x : SeqState) : byte x.code = match x with
    | .idle => 0
    | .watching => 1
    | .triggered => 2 := by
  cases x <;> rfl

theorem Role.byte_code (x : Role) : byte x.code = match x with
    | .alone => 0
    | .leader => 1
    | .follower => 2 := by
  cases x <;> rfl

/-- Byte 6 of STATUS (R191). -/
theorem statusFlags_eq (s : State) : statusFlagByte s.holdPin s.tm.holdSpent s.ru.mark.isSome s.tap.decodeEnable =
    byte ((if s.tm.episode = none then 0 else 1) + (if s.tm.holdSpent then 2 else 0) +
      (if s.ru.mark = none then 0 else 4) + (if s.tap.decodeEnable then 8 else 0)) := by
  rw [statusFlagByte, packBits_eq, ite_isSome, State.holdPin, ite_isSome]
  simp

theorem statusPayload_eq (s : State) : statusPayload s = [byte s.cc.state.code, byte s.cc.state.causeCode] ++
    [byte s.seq.state.code, byte s.seq.stage.val] ++ beBytes 2 s.seq.occ ++
    [statusFlagByte s.holdPin s.tm.holdSpent s.ru.mark.isSome s.tap.decodeEnable] ++
    beBytes 2 s.unread ++ beBytes 2 s.tm.trace.length ++ beBytes 2 s.tm.free ++
    beBytes 4 s.cc.seen ++ beBytes 4 s.cc.qualified ++ beBytes 4 s.cc.appended ++ beBytes 4 s.cc.lost ++
    beBytes 2 s.seq.trigCount ++ [byte s.sp.queue.length, byte s.tb.role.code] := rfl

theorem statusPayload_length (s : State) : (statusPayload s).length = 33 := by simp [statusPayload]

/-! ### SET EVENT MASK (R173) -/

theorem set?_of_lt {v w : Nat} {b : BitVec v} (h : b.toNat < 2 ^ w) : set? w b = some (b.setWidth w) := by
  rw [set?, if_pos h, BitVec.ofNat_toNat]

theorem set?_of_ge {v w : Nat} {b : BitVec v} (h : 2 ^ w ≤ b.toNat) : set? w b = none := if_neg (by omega)

/-- Settles O51: each command's judgement, and the bytes of STATUS and of an event's entry. -/
theorem servicePortCommands : Obligations.ServicePortCommands := by
  intro s
  refine ⟨fun p hp => ?_, fun hr hq => ?_, fun e rest code detail hr hq hcode => ?_,
    fun kinds hr => ⟨fun h => ?_, fun h m hm => ?_⟩, fun hr => ?_⟩
  · have hstatus : p = statusPayload s := by
      rw [hp, statusPayload_eq, captureState_bytes, SeqState.byte_code, Role.byte_code, statusFlags_eq] <;> rfl
    rw [hstatus]
    exact ⟨statusPayload_length s, fun hr => answers_of_judge judgeStatus hr rfl rfl rfl⟩
  · exact answers_of_judge judgeNextEvent hr rfl rfl (by simp only [judgeNextEvent, hq, reply])
  · have hbytes : e.bytes = code :: beBytes 5 e.time.toNat ++ detail := by
      have hpair : (code, detail) = (byte e.event.code, e.event.detail) := by
        rw [hcode]
        cases e.event with
        | restarted c => cases c <;> rfl
        | triggered source n => cases source <;> rfl
        | sessionComplete c => cases c <;> rfl
        | stageTimeout k action => cases action <;> rfl
        | holdOff c n => cases c <;> rfl
        | _ => rfl
      cases hpair
      rfl
    refine answers_of_judge judgeNextEvent hr rfl rfl ?_
    simp only [judgeNextEvent, hq, hbytes, reply]
  · refine answers_of_judge (judgeSetEventMask kinds) hr rfl rfl ?_
    simp only [judgeSetEventMask, set?_of_ge (w := 13) h, reply]
  · subst hm
    refine answers_of_judge (judgeSetEventMask kinds) hr rfl rfl ?_
    simp only [judgeSetEventMask, set?_of_lt (w := 13) h, alwaysEnabled, reply]
  · exact answers_of_judge judgeSoftReset hr rfl rfl rfl

/-! ### The completion of a reply (R112, R128, R162, R172) -/

/-- The last bit of a reply stands in its length or its payload (R161). -/
theorem lastBit_eq {sp : ServicePort} {r : Reply} (h : sp.reply = some r) :
    sp.lastBit = ((beBytes 2 r.payload.length ++ r.payload).getLastD 0).getLsbD 0 := by
  rw [ServicePort.lastBit, replyBytes_eq h, r.bytes_cons]
  rfl

/-- The port once a reply has been completed: the frame in TRAILER, the buffer empty (R162, R163). -/
def ServicePort.afterReply (sp : ServicePort) (r : Reply) : ServicePort :=
  { sp with
    frame := .trailer, reply := none, ready := false, bits := [], byteAt := none, pendingSent := 0
    out := ((beBytes 2 r.payload.length ++ r.payload).getLastD 0).getLsbD 0 }

/-- R162: the reply is complete, and what waits on it takes place. -/
theorem exec_replyComplete {s u : State} {sp : ServicePort} {r : Reply} (hframe : s.sp.frame = .reply)
    (hready : s.sp.ready = true) (hreply : s.sp.reply = some r) (hrecord : consumeRecord s = u)
    (hport : u.sp = s.sp) (hevent : removeEvent s.sp = sp) :
    exec .replyComplete s = .next (settle s
      { u with sLine := { u.sLine with clock := true }, sp := sp.afterReply r }) := by
  subst hrecord hevent
  simp only [exec, execReplyComplete]
  rw [if_pos ⟨hframe, hready⟩]
  simp only [happening, completeReply, hport, lastBit_eq hreply]
  rfl

theorem consumeRecord_none {s : State} (h : s.ru.inFlight = none) : consumeRecord s = s := by
  simp only [consumeRecord, h]

/-- R128: a read in flight elsewhere consumes nothing. -/
theorem consumeRecord_elsewhere {s : State} {id : Nat} (hid : s.ru.inFlight = some id)
    (hno : ∀ h, s.tm.trace[s.ru.cursor]? = some h → h.id ≠ id) :
    consumeRecord s = { s with ru := { s.ru with inFlight := none } } := by
  have hcursor : ¬s.atCursor.map Held.id = some id := fun h => by
    obtain ⟨x, hx, hxid⟩ := Option.map_eq_some_iff.mp h
    exact hno x hx hxid
  simp only [consumeRecord, hid, if_neg hcursor]

/-- R128: the record at the cursor is consumed. -/
theorem consumeRecord_atCursor {s : State} {id : Nat} {h : Held} (hid : s.ru.inFlight = some id)
    (hh : s.tm.trace[s.ru.cursor]? = some h) (heq : h.id = id) {t : State}
    (ht : freeRead { s with ru := { s.ru with cursor := s.ru.cursor + 1 } } = t) :
    consumeRecord s = { t with ru := { t.ru with inFlight := none } } := by
  have hcursor : s.atCursor.map Held.id = some id := Option.map_eq_some_iff.mpr ⟨h, hh, heq⟩
  subst ht
  simp only [consumeRecord, hid, if_pos hcursor]

theorem removeEvent_none {sp : ServicePort} (h : sp.inFlight = none) : removeEvent sp = sp := by
  simp only [removeEvent, h]

/-- R172: the entry that equals its copy is removed. -/
theorem removeEvent_same {sp : ServicePort} {f : EventInFlight} {e : Entry} {rest : List Entry}
    (hf : sp.inFlight = some f) (hq : sp.queue = e :: rest) (he : e.event = f.copied) :
    removeEvent sp = { sp with queue := rest, inFlight := none } := by
  simp only [removeEvent, hf, hq, he, if_true]

/-- R172: an entry with counts added since its copy keeps the remainder. -/
theorem removeEvent_remainder {sp : ServicePort} {f : EventInFlight} {e : Entry} {rest : List Entry} {time : Time}
    (hf : sp.inFlight = some f) (hq : sp.queue = e :: rest) (he : e.event ≠ f.copied) (ht : f.addedAt = some time) :
    removeEvent sp =
      { sp with queue := { event := e.event.minus f.copied, time := time } :: rest, inFlight := none } := by
  simp only [removeEvent, hf, hq, if_neg he, ht, Option.getD_some]

/-- Settles O52: by the read in flight, and then by the event in flight. -/
theorem replyCompletionActs : Obligations.ReplyCompletionActs := by
  refine ⟨fun s h => ?_, fun s r line done hr hline hdone => ?_⟩
  · have hno : ¬(s.sp.frame = .reply ∧ s.sp.ready = true) := by
      rintro ⟨hf, hready⟩
      rcases h with h | h
      · exact h hf
      · rw [hready] at h; cases h
    simp only [exec, execReplyComplete, if_neg hno]
  · subst hline hdone
    refine ⟨fun hf hready hnone => ⟨fun hread => ?_, fun id hid => ⟨fun hno => ?_,
      fun h hh heq => ⟨fun hm => ?_, fun hm => ?_⟩⟩⟩, fun f e rest hf hready hread hfl hq => ⟨fun he => ?_,
      fun k n time left he ht hleft => ?_⟩⟩
    · rw [exec_replyComplete hf hready hr (consumeRecord_none hread) rfl (removeEvent_none hnone)]
      exact congrArg Host.Outcome.next (settle_of_same rfl rfl rfl rfl)
    · rw [exec_replyComplete hf hready hr (consumeRecord_elsewhere hid hno) rfl (removeEvent_none hnone)]
      exact congrArg Host.Outcome.next (settle_of_same rfl rfl rfl rfl)
    · rw [exec_replyComplete hf hready hr (consumeRecord_atCursor hid hh heq (freeRead_unmarked (by exact hm))) rfl
        (removeEvent_none hnone)]
      rfl
    · rw [exec_replyComplete hf hready hr (consumeRecord_atCursor hid hh heq (freeRead_marked (by exact hm))) rfl
        (removeEvent_none hnone)]
      rfl
    · rw [exec_replyComplete hf hready hr (consumeRecord_none hread) rfl (removeEvent_same hfl hq he)]
      exact congrArg Host.Outcome.next (settle_of_same rfl rfl rfl rfl)
    · have hminus : e.event.minus f.copied = left := by
        rcases hleft with h | h | h <;> simp only [Prod.mk.injEq] at h <;> obtain ⟨h1, h2, h3⟩ := h <;>
          rw [h1, h2, h3] <;> rfl
      rw [exec_replyComplete hf hready hr (consumeRecord_none hread) rfl (removeEvent_remainder hfl hq he ht), hminus]
      exact congrArg Host.Outcome.next (settle_of_same rfl rfl rfl rfl)

end Sys2Proof.Machine
end

section
/-! A service command is taken at its last byte, and its reply begins after at most 16 pending bytes (R156, R158, R159,
R161, R193). -/

namespace Sys2Proof.Machine
open Sys2Proof

/-! ### What every judgement keeps -/

/-- A judgement of `s` leaves S_SEL and the level on S_DO, and its payload fits the reply buffer (R156, R159). -/
structure Judged (s : State) (j : Reply × State) : Prop where
  sSel : j.2.sSel = s.sSel
  out : j.2.sp.out = s.sp.out
  payload : j.1.payload.length ≤ 288

theorem Judged.of_quiet {s t : State} {r : Reply} (hq : Quiet s t) (hr : r.payload.length ≤ 288) : Judged s (r, t) :=
  ⟨hq.sSel, hq.out, hr⟩

theorem Judged.of_same {s : State} {r : Reply} (hr : r.payload.length ≤ 288) : Judged s (r, s) := ⟨rfl, rfl, hr⟩

/-! ### The payloads of the configuration and of the tally -/

theorem opcodeConditionBytes_length (x : Option Byte) : (opcodeConditionBytes x).length = 2 := by
  cases x <;> rfl

theorem windowBytes_length (x : Option (Word32 × Word32)) : (windowBytes x).length = 9 := by
  cases x <;> rfl

theorem slotPayload_length (n : Nat) (f : Slot) : (slotPayload n f).length = 30 := by
  simp [slotPayload, opcodeConditionBytes_length, windowBytes_length]

theorem stagePayload_length (n : Nat) (g : Stage) (count : Nat) : (stagePayload n g count).length = 12 := by
  simp [stagePayload]

theorem setupPayload_length (c : Setup) : (setupPayload c).length = 17 := by simp [setupPayload]

theorem timebasePayload_length (tb : Timebase) : (timebasePayload tb).length = 8 := by simp [timebasePayload]

theorem tallyRowPayload_length (n : Nat) (time : Time) (r : TallyRow) : (tallyRowPayload n time r).length = 72 := by
  simp [tallyRowPayload, toList_six, TallyCell.layout]

theorem detail_length (e : Event) : e.detail.length = 4 := by cases e <;> simp [Event.detail]

theorem entry_bytes_length (e : Entry) : e.bytes.length = 10 := by simp [Entry.bytes, detail_length]

/-- R188: a record in the trace has at most 36 units. -/
theorem record_bytes_le {s : State} {h : Held} (hs : TraceSound s) (hh : s.atCursor = some h) :
    h.record.bytes.length ≤ 288 := by
  obtain ⟨_, hunits, _⟩ := hs
  have hrecord := (hunits h (List.mem_of_getElem? hh)).2
  rw [h.record.bytes_length]
  omega

/-! ### Each command's judgement -/

section
variable {s : State}

theorem judgeStatus_judged : Judged s (judgeStatus s) := .of_same (by simp [reply, statusPayload_length])

theorem judgeNextEvent_judged : Judged s (judgeNextEvent s) := by
  unfold judgeNextEvent
  split
  · exact .of_same (Nat.zero_le _)
  · exact ⟨rfl, rfl, by simp [reply, entry_bytes_length]⟩

theorem judgeSetEventMask_judged (kinds : BitVec 16) : Judged s (judgeSetEventMask kinds s) := by
  unfold judgeSetEventMask
  split
  · exact .of_same (by simp [reply])
  · exact ⟨rfl, rfl, by simp [reply]⟩

theorem judgeLinkControl_judged (d i l : Byte) : Judged s (judgeLinkControl d i l s) := by
  unfold judgeLinkControl
  split
  · exact .of_same (by simp [reply, linkPayload])
  · split
    · exact ⟨applyLinkControl_sSel _ _ _ s, congrArg ServicePort.out (applyLinkControl_sp _ _ _ s),
        by simp [reply, linkPayload]⟩
    · exact .of_same (by simp [reply, linkPayload])

theorem judgePutOpcodeEntry_judged (a : OpcodeEntryArgs) : Judged s (judgePutOpcodeEntry a s) := by
  unfold judgePutOpcodeEntry
  split
  · exact .of_same (Nat.zero_le _)
  · split
    · exact .of_same (Nat.zero_le _)
    · split
      · exact ⟨rfl, rfl, by simp [reply]⟩
      · split
        · exact ⟨rfl, rfl, by simp [reply]⟩
        · exact .of_same (Nat.zero_le _)

theorem opcodeEntryReply_length (form v : Byte) (t : OpcodeTable) : (opcodeEntryReply form v t).payload.length ≤ 288 := by
  unfold opcodeEntryReply
  split
  · split
    · split <;> simp [reply, entryPayload]
    · exact Nat.zero_le _
  · split
    · exact Nat.zero_le _
    · split <;> simp [reply, entryPayload]
  · exact Nat.zero_le _

theorem judgeDropOpcodeEntry_judged (v : Byte) : Judged s (judgeDropOpcodeEntry v s) := by
  unfold judgeDropOpcodeEntry
  split
  · exact .of_same (Nat.zero_le _)
  · split
    · exact .of_same (Nat.zero_le _)
    · exact ⟨rfl, rfl, Nat.zero_le _⟩

theorem judgePutSlot_judged (a : SlotArgs) : Judged s (judgePutSlot a s) := by
  unfold judgePutSlot
  split
  · exact .of_same (Nat.zero_le _)
  · split
    · exact ⟨rfl, rfl, Nat.zero_le _⟩
    · exact .of_same (Nat.zero_le _)

theorem slotReply_length (n : Byte) (slots : Vector Slot 8) : (slotReply n slots).payload.length ≤ 288 := by
  unfold slotReply
  split
  · simp [reply, slotPayload_length]
  · exact Nat.zero_le _

theorem judgePutStage_judged (a : StageArgs) : Judged s (judgePutStage a s) := by
  unfold judgePutStage
  split
  · exact .of_same (Nat.zero_le _)
  · split
    · exact ⟨rfl, rfl, Nat.zero_le _⟩
    · exact .of_same (Nat.zero_le _)

theorem stageReply_length (n : Byte) (q : Sequencer) : (stageReply n q).payload.length ≤ 288 := by
  unfold stageReply
  split
  · simp [reply, stagePayload_length]
  · exact Nat.zero_le _

theorem judgePutSequence_judged (n : Byte) : Judged s (judgePutSequence n s) := by
  unfold judgePutSequence
  split
  · exact .of_same (by simp [reply])
  · split
    · exact ⟨rfl, rfl, by simp [reply]⟩
    · exact .of_same (by simp [reply])

theorem judgePutCaptureSetup_judged (a : SetupArgs) : Judged s (judgePutCaptureSetup a s) := by
  unfold judgePutCaptureSetup
  split
  · exact .of_same (Nat.zero_le _)
  · split
    · exact ⟨rfl, rfl, Nat.zero_le _⟩
    · exact .of_same (Nat.zero_le _)

theorem judgeForceTrigger_judged : Judged s (judgeForceTrigger s) := by
  unfold judgeForceTrigger
  split
  · exact .of_quiet (happening_quiet (declareTrigger_quiet .forced s)) (by simp [reply])
  · exact .of_same (by simp [reply])

theorem judgeArm_judged (o p : Byte) : Judged s (judgeArm o p s) := by
  refine ⟨?_, ?_, by simp [judgeArm, reply]⟩
  · unfold judgeArm
    dsimp only
    split
    · rw [happening, (settle_quiet _ _).sSel, beginSession_sSel, prepareSession_sSel]
    · rfl
  · unfold judgeArm
    dsimp only
    split
    · rw [happening, (settle_quiet _ _).out, beginSession_sp, prepareSession_sp]
    · rfl

theorem judgeStop_judged : Judged s (judgeStop s) := by
  unfold judgeStop
  split
  · exact .of_quiet (happening_quiet (completeSession_quiet .stopped s)) (by simp [reply])
  · exact .of_same (by simp [reply])

theorem judgeClearTrace_judged : Judged s (judgeClearTrace s) := by
  unfold judgeClearTrace
  split
  · exact .of_same (Nat.zero_le _)
  · exact .of_quiet (happening_quiet (emptyTrace_quiet s)) (Nat.zero_le _)

theorem judgeReadRecord_judged (hs : TraceSound s) : Judged s (judgeReadRecord s) := by
  unfold judgeReadRecord
  split
  · exact .of_same (Nat.zero_le _)
  · next h hh => exact ⟨rfl, rfl, record_bytes_le hs hh⟩

theorem judgePeekRecord_judged (hs : TraceSound s) : Judged s (judgePeekRecord s) := by
  unfold judgePeekRecord
  split
  · exact .of_same (Nat.zero_le _)
  · next h hh => exact .of_same (record_bytes_le hs hh)

theorem judgeSkipRecords_judged (n : BitVec 16) : Judged s (judgeSkipRecords n s) := by
  unfold judgeSkipRecords
  split
  · exact .of_same (Nat.zero_le _)
  · exact .of_quiet (happening_quiet (skipRecords_quiet _ s)) (by simp [reply])

theorem judgeMark_judged : Judged s (judgeMark s) := by
  unfold judgeMark
  split
  · exact .of_same (Nat.zero_le _)
  · split
    · exact .of_same (Nat.zero_le _)
    · exact ⟨rfl, rfl, Nat.zero_le _⟩

theorem judgeRewind_judged : Judged s (judgeRewind s) := by
  unfold judgeRewind
  split
  · exact .of_same (Nat.zero_le _)
  · exact .of_quiet (happening_quiet (rewindTo_quiet _ s)) (by simp [reply])

theorem judgeRelease_judged : Judged s (judgeRelease s) := by
  unfold judgeRelease
  split
  · exact .of_same (Nat.zero_le _)
  · exact .of_quiet (happening_quiet (releaseMark_quiet s)) (by simp [reply])

theorem judgeSetWatermark_judged (w : BitVec 16) : Judged s (judgeSetWatermark w s) := by
  unfold judgeSetWatermark
  split
  · exact .of_same (by simp [reply])
  · exact ⟨rfl, rfl, by simp [reply]⟩

theorem judgeSetTimebase_judged (a : TimebaseArgs) : Judged s (judgeSetTimebase a s) := by
  unfold judgeSetTimebase
  split
  · exact .of_same (by simp [reply, timebasePayload_length])
  · split
    · exact .of_same (by simp [reply, timebasePayload_length])
    · exact ⟨rfl, rfl, by simp [reply, timebasePayload_length]⟩

theorem judgeSyncNow_judged : Judged s (judgeSyncNow s) := by
  unfold judgeSyncNow
  split
  · exact ⟨emitSync_sSel s, congrArg ServicePort.out (emitSync_sp s), by simp [reply]⟩
  · exact .of_same (Nat.zero_le _)

theorem judgeTallyControl_judged (c : Byte) : Judged s (judgeTallyControl c s) := by
  unfold judgeTallyControl
  split
  · exact .of_same (by simp [reply])
  · exact ⟨rfl, rfl, by simp [reply]⟩

theorem judgeTallySnapshot_judged (c : Byte) : Judged s (judgeTallySnapshot c s) := by
  unfold judgeTallySnapshot
  split
  · exact .of_same (Nat.zero_le _)
  · exact ⟨rfl, rfl, by simp [reply]⟩

theorem tallyReply_length (row : Byte) (a : Tally) : (tallyReply row a).payload.length ≤ 288 := by
  unfold tallyReply
  split
  · simp [reply, tallyRowPayload_length]
  · split
    · simp [reply, tallyCollisionPayload]
    · exact Nat.zero_le _

end

/-- R156, R159: every service command is a judgement, of a payload the reply buffer holds. -/
theorem exec_judged {i : Instr} {bytes : List Byte} (h : i.serviceBytes = some bytes) :
    ∃ judge, (∀ s, exec i s = .next (takeCommand i judge s)) ∧ ∀ s, TraceSound s → Judged s (judge s) := by
  cases i <;> cases h
  case status => exact ⟨_, fun _ => rfl, fun _ _ => judgeStatus_judged⟩
  case nextEvent => exact ⟨_, fun _ => rfl, fun _ _ => judgeNextEvent_judged⟩
  case setEventMask kinds => exact ⟨_, fun _ => rfl, fun _ _ => judgeSetEventMask_judged kinds⟩
  case softReset => exact ⟨_, fun _ => rfl, fun _ _ => ⟨rfl, rfl, Nat.zero_le _⟩⟩
  case linkControl d i l => exact ⟨_, fun _ => rfl, fun _ _ => judgeLinkControl_judged d i l⟩
  case putOpcodeEntry a => exact ⟨_, fun _ => rfl, fun _ _ => judgePutOpcodeEntry_judged a⟩
  case getOpcodeEntry form v => exact ⟨_, fun _ => rfl, fun _ _ => .of_same (opcodeEntryReply_length form v _)⟩
  case dropOpcodeEntry v => exact ⟨_, fun _ => rfl, fun _ _ => judgeDropOpcodeEntry_judged v⟩
  case putSlot a => exact ⟨_, fun _ => rfl, fun _ _ => judgePutSlot_judged a⟩
  case getSlot n => exact ⟨_, fun _ => rfl, fun _ _ => .of_same (slotReply_length n _)⟩
  case putStage a => exact ⟨_, fun _ => rfl, fun _ _ => judgePutStage_judged a⟩
  case getStage n => exact ⟨_, fun _ => rfl, fun _ _ => .of_same (stageReply_length n _)⟩
  case putSequence n => exact ⟨_, fun _ => rfl, fun _ _ => judgePutSequence_judged n⟩
  case putCaptureSetup a => exact ⟨_, fun _ => rfl, fun _ _ => judgePutCaptureSetup_judged a⟩
  case getCaptureSetup => exact ⟨_, fun _ => rfl, fun _ _ => .of_same (by simp [reply, setupPayload_length])⟩
  case forceTrigger => exact ⟨_, fun _ => rfl, fun _ _ => judgeForceTrigger_judged⟩
  case arm o p => exact ⟨_, fun _ => rfl, fun _ _ => judgeArm_judged o p⟩
  case stop => exact ⟨_, fun _ => rfl, fun _ _ => judgeStop_judged⟩
  case clearTrace => exact ⟨_, fun _ => rfl, fun _ _ => judgeClearTrace_judged⟩
  case readRecord => exact ⟨_, fun _ => rfl, fun _ hs => judgeReadRecord_judged hs⟩
  case peekRecord => exact ⟨_, fun _ => rfl, fun _ hs => judgePeekRecord_judged hs⟩
  case skipRecords n => exact ⟨_, fun _ => rfl, fun _ _ => judgeSkipRecords_judged n⟩
  case mark => exact ⟨_, fun _ => rfl, fun _ _ => judgeMark_judged⟩
  case rewind => exact ⟨_, fun _ => rfl, fun _ _ => judgeRewind_judged⟩
  case release => exact ⟨_, fun _ => rfl, fun _ _ => judgeRelease_judged⟩
  case setWatermark w => exact ⟨_, fun _ => rfl, fun _ _ => judgeSetWatermark_judged w⟩
  case setTimebase a => exact ⟨_, fun _ => rfl, fun _ _ => judgeSetTimebase_judged a⟩
  case syncNow => exact ⟨_, fun _ => rfl, fun _ _ => judgeSyncNow_judged⟩
  case readTime => exact ⟨_, fun _ => rfl, fun _ _ => .of_same (by simp [reply])⟩
  case tallyControl c => exact ⟨_, fun _ => rfl, fun _ _ => judgeTallyControl_judged c⟩
  case tallySnapshot c => exact ⟨_, fun _ => rfl, fun _ _ => judgeTallySnapshot_judged c⟩
  case readTally row => exact ⟨_, fun _ => rfl, fun _ _ => .of_same (tallyReply_length row _)⟩

/-! ### At most 16 pending bytes (R193, log 22) -/

/-- The port `n` bits into a reply: before its marker has begun it has counted them all, as pending bytes and the bits
of the byte in progress, and with the 16th pending byte the reply is ready. -/
def ServicePort.bitsIntoReply (n : Nat) (sp : ServicePort) : Prop :=
  sp.frame = .reply ∧ (sp.byteAt = none →
    8 * sp.pendingSent + sp.bits.length = n ∧ sp.bits.length ≤ 7 ∧ sp.pendingSent ≤ 16 ∧
    (sp.pendingSent = 16 → sp.ready = true ∧ sp.bits = []))

theorem bitsIntoReply_falling {n : Nat} {sp : ServicePort} (h : sp.bitsIntoReply n) : sp.falling.bitsIntoReply n := by
  obtain ⟨v, hv⟩ := falling_eq sp
  rw [hv]
  exact h

/-- A byte of the reply phase that begins with the reply ready is the marker. -/
theorem byteAt_of_byteBegun_none {sp : ServicePort} (h : sp.byteBegun = none) :
    sp.byteAt = none ∧ ¬(sp.bits = [] ∧ sp.ready = true) := by
  unfold ServicePort.byteBegun at h
  split at h
  · cases h
  · next hno => exact ⟨h, fun hb => hno ⟨hb.1, h, hb.2⟩⟩

/-- One more bit, whether or not its edge is REPLY COMPLETE's own. -/
theorem bitsIntoReply_rising {n : Nat} {d : Bool} {sp : ServicePort} (h : sp.bitsIntoReply n) :
    (∀ t, sp.rising d = some t → t.bitsIntoReply (n + 1)) ∧ (sp.rising d = none → sp.bitsIntoReply (n + 1)) := by
  obtain ⟨hf, hcount⟩ := h
  refine ⟨fun t ht => ?_, fun hnone => ⟨hf, fun hat => ?_⟩⟩
  · obtain ⟨⟨b, hc⟩, _⟩ | ⟨b, _, hc, _⟩ | ⟨_, hlen, rfl⟩ | ⟨_, hlen, hbegun, rfl⟩ | ⟨k, _, _, _, rfl⟩ | ⟨hc, _⟩ :=
      rising_cases ht
    · cases hf.symm.trans hc
    · cases hf.symm.trans hc
    · refine ⟨hf, fun hbegun => ?_⟩
      obtain ⟨hat, hno⟩ := byteAt_of_byteBegun_none hbegun
      obtain ⟨hn, _, hsent, hready⟩ := hcount hat
      have hlt : sp.pendingSent ≠ 16 := fun h16 => hno ⟨(hready h16).2, (hready h16).1⟩
      simp only [List.length_append, List.length_cons, List.length_nil]
      exact ⟨by omega, by omega, hsent, fun h16 => absurd h16 hlt⟩
    · obtain ⟨hat, hno⟩ := byteAt_of_byteBegun_none hbegun
      obtain ⟨hn, hbits, hsent, hready⟩ := hcount hat
      have hlt : sp.pendingSent ≠ 16 := fun h16 => hno ⟨(hready h16).2, (hready h16).1⟩
      refine ⟨hf, fun _ => ?_⟩
      simp only [pendingByteSent_pendingSent, pendingByteSent_bits, pendingByteSent_ready, List.length_nil,
        Bool.or_eq_true, decide_eq_true_eq]
      exact ⟨by omega, by omega, by omega, fun h16 => ⟨.inr (by omega), trivial⟩⟩
    · exact ⟨hf, nofun⟩
    · exact absurd hf hc
  · obtain ⟨_, hbits, _⟩ := hcount hat
    obtain hlt | heq : sp.bits.length < 7 ∨ sp.bits.length = 7 := by omega
    · cases (rising_reply_bit hf hlt).symm.trans hnone
    · cases (rising_reply_pending hf heq hat).symm.trans hnone

/-- The two transitions that clock one bit. -/
theorem bitsIntoReply_clocked {n : Nat} {s : State} (h : s.sp.bitsIntoReply n) (d : Bool) :
    (takeServiceEdge { clock := true, data := d }
      (takeServiceEdge { clock := false, data := d } s)).sp.bitsIntoReply (n + 1) := by
  obtain ⟨u, hu, hlow, hn⟩ : ∃ u, takeServiceEdge { clock := false, data := d } s = u ∧ u.sLine.clock = false ∧
      u.sp.bitsIntoReply n := by
    cases hc : s.sLine.clock with
    | true => exact ⟨_, edge_falling hc rfl, rfl, bitsIntoReply_falling h⟩
    | false => exact ⟨_, edge_level hc.symm, rfl, h⟩
  rw [hu]
  cases hr : u.sp.rising d with
  | some sp =>
    rw [edge_rising hlow rfl hr]
    exact (bitsIntoReply_rising hn).1 sp hr
  | none =>
    rw [edge_rising_other hlow rfl hr]
    exact (bitsIntoReply_rising hn).2 hr

theorem bitsIntoReply_afterEdges {n : Nat} {s : State} (h : s.sp.bitsIntoReply n) (clocked : List Bool) :
    (afterEdges (clockedBits clocked) s).sp.bitsIntoReply (n + clocked.length) := by
  induction clocked generalizing n s with
  | nil => exact h
  | cons d rest ih =>
    have hrest := ih (bitsIntoReply_clocked h d)
    rw [Nat.add_assoc, Nat.add_comm 1] at hrest
    exact hrest

/-- R193: within 129 bits the marker has begun. -/
theorem marker_begun {n : Nat} {sp : ServicePort} (h : sp.bitsIntoReply n) (hn : 129 ≤ n) : sp.byteAt ≠ none := by
  intro hat
  obtain ⟨hcount, hbits, hsent, hready⟩ := h.2 hat
  obtain hlt | h16 : sp.pendingSent < 16 ∨ sp.pendingSent = 16 := by omega
  · omega
  · rw [(hready h16).2, List.length_nil] at hcount
    omega

/-! ### The taking (R158) -/

theorem takeCommand_awaited {i : Instr} {bytes : List Byte} {s : State} (judge : State → Reply × State)
    (hb : i.serviceBytes = some bytes) (hf : s.sp.frame = .command bytes.dropLast)
    (hbits : s.sp.bits <+: byteBits (lastByteOf i)) :
    takeCommand i judge s = setReply (judge s).1 (lastByteOf i) (judge s).2 := by
  have ha : awaits i s = true := by
    unfold awaits
    rw [hb]
    exact decide_eq_true ⟨hf, hbits⟩
  exact if_pos ha

/-- A service command takes no line of the link. -/
theorem exec_command_lines {i : Instr} {bytes : List Byte} {s t : State} (hb : i.serviceBytes = some bytes)
    (h : exec i s = .next t) : t.lines = s.lines := by
  have hn : namesPulse i = false := by cases i <;> cases hb <;> rfl
  rw [exec_lines hn h]
  cases i <;> cases hb <;> rfl

/-- Settles O50: the judgement's reply placed at the last byte; its marker by the count of bits clocked. -/
theorem commandTakenAtItsLastByte : Obligations.CommandTakenAtItsLastByte := by
  refine ⟨fun i bytes last bits s hb hlast hbits => ?_, fun code s h => ?_⟩
  · have hlastByte : lastByteOf i = last := by
      rw [lastByteOf, hb, Option.getD_some, List.getLastD_eq_getLast?, hlast, Option.getD_some]
    have hsent : byteBits (lastByteOf i) = bits := by rw [hlastByte, hbits]; rfl
    obtain ⟨judge, hexec, hjudged⟩ := exec_judged hb
    refine ⟨fun h => ?_, fun hs hf hpre => ?_⟩
    · rw [hexec, takeCommand_unawaited judge hb (hsent ▸ h)]
    · have ht : exec i s = .next (setReply (judge s).1 last (judge s).2) := by
        rw [hexec, takeCommand_awaited judge hb hf (hsent ▸ hpre), hlastByte]
      obtain ⟨hsSel, hout, hpayload⟩ := hjudged s hs
      have hlines := exec_command_lines hb ht
      simp only [State.lines, Prod.mk.injEq] at hlines
      obtain ⟨_, hhSel, hhClk, hlanes⟩ := hlines
      have hpending := (pending_moves s.pending).exec rfl ht
      refine ⟨_, _, ht, rfl, rfl, rfl, hpayload, rfl, rfl, rfl, hout, fun clocked hlong => ?_, rfl, hsSel, hhSel,
        hlanes, hhClk, hpending⟩
      have hstart : (setReply (judge s).1 last (judge s).2).sp.bitsIntoReply 0 :=
        ⟨rfl, fun _ => ⟨rfl, Nat.zero_le _, Nat.zero_le _, nofun⟩⟩
      exact marker_begun (bitsIntoReply_afterEdges hstart clocked) (by omega)
  · have hno : ¬(s.sp.frame = .command [] ∧ commandArgs code = none ∧ s.sp.bits <+: byteBits code) := by
      rintro ⟨hf, hcode, hbits⟩
      rcases h with h | h | h
      exacts [h hf, h hcode, h hbits]
    simp only [exec, execUnknownCommand, if_neg hno]

end Sys2Proof.Machine
end
